-- ==== Sys2Proof/Word.lean ====
section
/-! DEFINITION. The word types of the machine and the shapes of its fixed-size stores (00_scope.md rule R4: `XLEN` 8,
`ILEN` 16, `NREG` 16, `STACK_CAP` 16, `NKEYS` 16, `FB_W` × `FB_H` = 64 × 32). Each size of a stored thing is written here
and nowhere else. Every quantity is unsigned (R6). -/

namespace Sys2Proof

/-- A memory byte, a general register, a timer (`XLEN` = 8). -/
abbrev Byte := BitVec 8

/-- An instruction word, the index register, the program counter, a call-stack entry (`ILEN` = 16). -/
abbrev Word := BitVec 16

/-- The field `nnn`, a 12-bit address (R61). -/
abbrev Addr12 := BitVec 12

/-- The field `n`, four bits: a row count or a sub-opcode (R61). -/
abbrev Nibble := BitVec 4

/-- A general register's number, 0 to 15: "always exactly 4 bits wide" (R61), so no other number exists. -/
abbrev RegIdx := Fin 16

/-- A key's identifier, 0 to 15 (R19). -/
abbrev KeyId := Fin 16

/-- The general registers `V[0]` to `V[15]` (R10). -/
abbrev RegFile := Vector Byte 16

/-- The sixteen slots of the call stack (R15). -/
abbrev CallStack := Vector Word 16

/-- The keyboard flags, `true` for a held key (R19). -/
abbrev Keyboard := Vector Bool 16

/-- The pixels, column first as the spec writes `fb[c][r]`; `true` is lit (R18). -/
abbrev Framebuffer := Vector (Vector Bool 32) 64

/-- The flag register `VF`, general register 15 (R11). -/
abbrev vf : RegIdx := 15

end Sys2Proof
end

