-- ==== Sys2Proof/Syntax.lean ====
section
/-! DEFINITION. The instructions: one constructor per row of the opcode map (30_encoding.md rule R68), in its order.
The fields are those the table gives a row; the low nibble of `5xy-` and `9xy-`, which decode ignores (R65), is no field. -/

namespace Sys2Proof

/-- The 34 instructions and the 4 no-op classes (R68). -/
inductive Instr where
  /-- `00E0` CLS (R100). -/
  | cls
  /-- `00EE` RET (R101). -/
  | ret
  /-- `0nnn` SYS addr, every other word of family 0: a no-op (R102). -/
  | sys (nnn : Addr12)
  /-- `1nnn` JP addr (R103). -/
  | jp (nnn : Addr12)
  /-- `2nnn` CALL addr (R104). -/
  | call (nnn : Addr12)
  /-- `3xkk` SE Vx, byte (R110). -/
  | seImm (x : RegIdx) (kk : Byte)
  /-- `4xkk` SNE Vx, byte (R111). -/
  | sneImm (x : RegIdx) (kk : Byte)
  /-- `5xy-` SE Vx, Vy (R112). -/
  | seReg (x y : RegIdx)
  /-- `6xkk` LD Vx, byte (R113). -/
  | ldImm (x : RegIdx) (kk : Byte)
  /-- `7xkk` ADD Vx, byte (R114). -/
  | addImm (x : RegIdx) (kk : Byte)
  /-- `8xy0` LD Vx, Vy (R120). -/
  | ldReg (x y : RegIdx)
  /-- `8xy1` OR Vx, Vy (R121). -/
  | orReg (x y : RegIdx)
  /-- `8xy2` AND Vx, Vy (R122). -/
  | andReg (x y : RegIdx)
  /-- `8xy3` XOR Vx, Vy (R123). -/
  | xorReg (x y : RegIdx)
  /-- `8xy4` ADD Vx, Vy (R124). -/
  | addReg (x y : RegIdx)
  /-- `8xy5` SUB Vx, Vy (R125). -/
  | sub (x y : RegIdx)
  /-- `8xy6` SHR Vx; `y` is decoded and not used (R126). -/
  | shr (x y : RegIdx)
  /-- `8xy7` SUBN Vx, Vy (R127). -/
  | subn (x y : RegIdx)
  /-- `8xyE` SHL Vx; `y` is decoded and not used (R128). -/
  | shl (x y : RegIdx)
  /-- `8xyn` with any other `n`: a no-op (R129). -/
  | nop8 (x y : RegIdx) (n : Nibble)
  /-- `9xy-` SNE Vx, Vy (R140). -/
  | sneReg (x y : RegIdx)
  /-- `Annn` LD I, addr (R141). -/
  | ldI (nnn : Addr12)
  /-- `Bnnn` JP V0, addr (R142). -/
  | jpV0 (nnn : Addr12)
  /-- `Cxkk` RND Vx, byte (R143). -/
  | rnd (x : RegIdx) (kk : Byte)
  /-- `Dxyn` DRW Vx, Vy, nibble (R150). -/
  | drw (x y : RegIdx) (n : Nibble)
  /-- `Ex9E` SKP Vx (R160). -/
  | skp (x : RegIdx)
  /-- `ExA1` SKNP Vx (R161). -/
  | sknp (x : RegIdx)
  /-- `Exkk` with any other `kk`: a no-op (R162). -/
  | nopE (x : RegIdx) (kk : Byte)
  /-- `Fx07` LD Vx, DT (R170). -/
  | ldVxDT (x : RegIdx)
  /-- `Fx0A` LD Vx, K (R171). -/
  | ldVxK (x : RegIdx)
  /-- `Fx15` LD DT, Vx (R172). -/
  | ldDTVx (x : RegIdx)
  /-- `Fx18` LD ST, Vx (R173). -/
  | ldSTVx (x : RegIdx)
  /-- `Fx1E` ADD I, Vx (R174). -/
  | addI (x : RegIdx)
  /-- `Fx29` LD F, Vx (R175). -/
  | ldF (x : RegIdx)
  /-- `Fx33` LD B, Vx (R176). -/
  | ldB (x : RegIdx)
  /-- `Fx55` LD [I], Vx (R177). -/
  | storeRegs (x : RegIdx)
  /-- `Fx65` LD Vx, [I] (R178). -/
  | loadRegs (x : RegIdx)
  /-- `Fxkk` with any other `kk`: a no-op (R179). -/
  | nopF (x : RegIdx) (kk : Byte)
  deriving DecidableEq, Repr

end Sys2Proof
end

