-- ==== Sys2Proof/WellFormed.lean ====
section
/-! DEFINITION. Which instructions are well formed: the operand widths hold by type, so only the four catch-all rows have a
check, that their fields are not those of an earlier row of the family (30_encoding.md rules R66, R68). -/

namespace Sys2Proof

/-- The words of family 0 that are instructions of their own (R66a). -/
def familyZeroOwn (nnn : Addr12) : Bool := nnn == 0x0E0#12 || nnn == 0x0EE#12

/-- The sub-opcodes of family 8 that are instructions of their own: 0 to 7 and E (R66b). -/
def familyEightOwn (n : Nibble) : Bool := n.toNat ≤ 7 || n == 0xE#4

/-- The sub-opcodes of family E that are instructions of their own (R66c). -/
def familyEOwn (kk : Byte) : Bool := kk == 0x9E#8 || kk == 0xA1#8

/-- The sub-opcodes of family F that are instructions of their own (R66d). -/
def familyFOwn (kk : Byte) : Bool :=
  kk == 0x07#8 || kk == 0x0A#8 || kk == 0x15#8 || kk == 0x18#8 || kk == 0x1E#8 || kk == 0x29#8 || kk == 0x33#8 ||
    kk == 0x55#8 || kk == 0x65#8

/-- A catch-all row never receives a word of an earlier row (R66, R68, the table's `except`). -/
def Instr.wellFormed : Instr → Bool
  | .sys nnn => !familyZeroOwn nnn
  | .nop8 _ _ n => !familyEightOwn n
  | .nopE _ kk => !familyEOwn kk
  | .nopF _ kk => !familyFOwn kk
  | .cls | .ret | .jp _ | .call _ | .seImm _ _ | .sneImm _ _ | .seReg _ _ | .ldImm _ _ | .addImm _ _ | .ldReg _ _
  | .orReg _ _ | .andReg _ _ | .xorReg _ _ | .addReg _ _ | .sub _ _ | .shr _ _ | .subn _ _ | .shl _ _ | .sneReg _ _
  | .ldI _ | .jpV0 _ | .rnd _ _ | .drw _ _ _ | .skp _ | .sknp _ | .ldVxDT _ | .ldVxK _ | .ldDTVx _ | .ldSTVx _
  | .addI _ | .ldF _ | .ldB _ | .storeRegs _ | .loadRegs _ => true

end Sys2Proof
end

