-- ==== Sys2Proof/Decode.lean ====
section
/-! DEFINITION. The decoder, total on any bytes, and the encoder (30_encoding.md). Every 16-bit word decodes ("any 16-bit
input is valid to decode", R61); the only rejection, by name, is of a byte sequence too short to hold a word. -/

namespace Sys2Proof

/-! ### Fields of an instruction word (R61) -/

/-- `op = w[15:12]`, the opcode family. -/
def fieldOp (w : Word) : Nat := w.toNat / 4096

/-- `x = w[11:8]`. -/
def fieldX (w : Word) : RegIdx := ⟨w.toNat / 256 % 16, Nat.mod_lt _ (by decide)⟩

/-- `y = w[7:4]`. -/
def fieldY (w : Word) : RegIdx := ⟨w.toNat / 16 % 16, Nat.mod_lt _ (by decide)⟩

/-- `n = w[3:0]`. -/
def fieldN (w : Word) : Nibble := BitVec.ofNat 4 w.toNat

/-- `kk = w[7:0]`. -/
def fieldKk (w : Word) : Byte := BitVec.ofNat 8 w.toNat

/-- `nnn = w[11:0]`. -/
def fieldNnn (w : Word) : Addr12 := BitVec.ofNat 12 w.toNat

/-! ### Dispatch (R64) -/

/-- Family 0 compares the whole word with `00E0` and `00EE` (R64). -/
def decodeFamily0 (w : Word) : Instr :=
  if w = 0x00E0#16 then .cls else if w = 0x00EE#16 then .ret else .sys (fieldNnn w)

/-- Family 8 sub-dispatches on `n` (R64, R119). -/
def decodeFamily8 (w : Word) : Instr :=
  match (fieldN w).toNat with
  | 0 => .ldReg (fieldX w) (fieldY w)
  | 1 => .orReg (fieldX w) (fieldY w)
  | 2 => .andReg (fieldX w) (fieldY w)
  | 3 => .xorReg (fieldX w) (fieldY w)
  | 4 => .addReg (fieldX w) (fieldY w)
  | 5 => .sub (fieldX w) (fieldY w)
  | 6 => .shr (fieldX w) (fieldY w)
  | 7 => .subn (fieldX w) (fieldY w)
  | 0xE => .shl (fieldX w) (fieldY w)
  | _ => .nop8 (fieldX w) (fieldY w) (fieldN w)

/-- Family E sub-dispatches on `kk` (R64). -/
def decodeFamilyE (w : Word) : Instr :=
  match (fieldKk w).toNat with
  | 0x9E => .skp (fieldX w)
  | 0xA1 => .sknp (fieldX w)
  | _ => .nopE (fieldX w) (fieldKk w)

/-- Family F sub-dispatches on `kk` (R64). -/
def decodeFamilyF (w : Word) : Instr :=
  match (fieldKk w).toNat with
  | 0x07 => .ldVxDT (fieldX w)
  | 0x0A => .ldVxK (fieldX w)
  | 0x15 => .ldDTVx (fieldX w)
  | 0x18 => .ldSTVx (fieldX w)
  | 0x1E => .addI (fieldX w)
  | 0x29 => .ldF (fieldX w)
  | 0x33 => .ldB (fieldX w)
  | 0x55 => .storeRegs (fieldX w)
  | 0x65 => .loadRegs (fieldX w)
  | _ => .nopF (fieldX w) (fieldKk w)

/-- The instruction a word selects: first its top four bits, then the family's own test (R64, R68). `fieldOp w` is below
16, so the last arm is family F. -/
def decodeWord (w : Word) : Instr :=
  match fieldOp w with
  | 0x0 => decodeFamily0 w
  | 0x1 => .jp (fieldNnn w)
  | 0x2 => .call (fieldNnn w)
  | 0x3 => .seImm (fieldX w) (fieldKk w)
  | 0x4 => .sneImm (fieldX w) (fieldKk w)
  | 0x5 => .seReg (fieldX w) (fieldY w)
  | 0x6 => .ldImm (fieldX w) (fieldKk w)
  | 0x7 => .addImm (fieldX w) (fieldKk w)
  | 0x8 => decodeFamily8 w
  | 0x9 => .sneReg (fieldX w) (fieldY w)
  | 0xA => .ldI (fieldNnn w)
  | 0xB => .jpV0 (fieldNnn w)
  | 0xC => .rnd (fieldX w) (fieldKk w)
  | 0xD => .drw (fieldX w) (fieldY w) (fieldN w)
  | 0xE => decodeFamilyE w
  | _ => decodeFamilyF w

/-! ### Bytes (R42, R60) -/

/-- The word of two bytes, the high byte at the lower address (R42). -/
def wordOfBytes (hi lo : Byte) : Word := BitVec.ofNat 16 (hi.toNat * 256 + lo.toNat)

/-- The byte of a word that lies at the lower address (R72: `w div 256`). -/
def highByte (w : Word) : Byte := BitVec.ofNat 8 (w.toNat / 256)

/-- The byte of a word that lies at the higher address (R72: `w mod 256`). -/
def lowByte (w : Word) : Byte := BitVec.ofNat 8 w.toNat

/-- Why a byte sequence holds no instruction. -/
inductive DecodeError where
  /-- Fewer than two bytes: an instruction is exactly two (R60). -/
  | truncated
  deriving DecidableEq, Repr

/-- What decoding bytes gives: the first instruction and the bytes after it, or a rejection. -/
inductive Decoded where
  | instr (i : Instr) (rest : List Byte)
  | rejected (e : DecodeError)
  deriving DecidableEq, Repr

/-- Decode the instruction at the head of a byte sequence (R60, R61). -/
def decode : List Byte → Decoded
  | hi :: lo :: rest => .instr (decodeWord (wordOfBytes hi lo)) rest
  | [] | [_] => .rejected .truncated

/-! ### Encoding (R72) -/

/-- `XY`, `XYF`, `XYN`: `op*4096 + x*256 + y*16 + n` (R72). -/
def wordXYN (op : Nat) (x y : RegIdx) (n : Nat) : Word := BitVec.ofNat 16 (op * 4096 + x.val * 256 + y.val * 16 + n)

/-- `XKK`, `XF`: `op*4096 + x*256 + kk` (R72). -/
def wordXKK (op : Nat) (x : RegIdx) (kk : Nat) : Word := BitVec.ofNat 16 (op * 4096 + x.val * 256 + kk)

/-- `NNN`: `op*4096 + nnn` (R72). -/
def wordNNN (op : Nat) (nnn : Addr12) : Word := BitVec.ofNat 16 (op * 4096 + nnn.toNat)

/-- The word of an instruction; `5xy-` and `9xy-` take their canonical encodings `5xy0` and `9xy0` (R65, R68, R72). -/
def encode : Instr → Word
  | .cls => 0x00E0#16
  | .ret => 0x00EE#16
  | .sys nnn => wordNNN 0x0 nnn
  | .jp nnn => wordNNN 0x1 nnn
  | .call nnn => wordNNN 0x2 nnn
  | .seImm x kk => wordXKK 0x3 x kk.toNat
  | .sneImm x kk => wordXKK 0x4 x kk.toNat
  | .seReg x y => wordXYN 0x5 x y 0
  | .ldImm x kk => wordXKK 0x6 x kk.toNat
  | .addImm x kk => wordXKK 0x7 x kk.toNat
  | .ldReg x y => wordXYN 0x8 x y 0
  | .orReg x y => wordXYN 0x8 x y 1
  | .andReg x y => wordXYN 0x8 x y 2
  | .xorReg x y => wordXYN 0x8 x y 3
  | .addReg x y => wordXYN 0x8 x y 4
  | .sub x y => wordXYN 0x8 x y 5
  | .shr x y => wordXYN 0x8 x y 6
  | .subn x y => wordXYN 0x8 x y 7
  | .shl x y => wordXYN 0x8 x y 0xE
  | .nop8 x y n => wordXYN 0x8 x y n.toNat
  | .sneReg x y => wordXYN 0x9 x y 0
  | .ldI nnn => wordNNN 0xA nnn
  | .jpV0 nnn => wordNNN 0xB nnn
  | .rnd x kk => wordXKK 0xC x kk.toNat
  | .drw x y n => wordXYN 0xD x y n.toNat
  | .skp x => wordXKK 0xE x 0x9E
  | .sknp x => wordXKK 0xE x 0xA1
  | .nopE x kk => wordXKK 0xE x kk.toNat
  | .ldVxDT x => wordXKK 0xF x 0x07
  | .ldVxK x => wordXKK 0xF x 0x0A
  | .ldDTVx x => wordXKK 0xF x 0x15
  | .ldSTVx x => wordXKK 0xF x 0x18
  | .addI x => wordXKK 0xF x 0x1E
  | .ldF x => wordXKK 0xF x 0x29
  | .ldB x => wordXKK 0xF x 0x33
  | .storeRegs x => wordXKK 0xF x 0x55
  | .loadRegs x => wordXKK 0xF x 0x65
  | .nopF x kk => wordXKK 0xF x kk.toNat

/-- The two bytes an instruction occupies, the high byte first (R42, R72). -/
def encodeBytes (i : Instr) : List Byte := [highByte (encode i), lowByte (encode i)]

/-! ### The opcode table's numbering -/

/-- The 16-bit word that a table row's `nbits` bits `w` stand for: bits above `nbits` are 0, and no instruction is longer
than 16 bits (R60). -/
def tableWord (nbits w : Nat) : Word := BitVec.ofNat 16 (w % 2 ^ nbits)

/-- The instruction the decoder reads from a row's word, laid out as the machine stores it: high byte first (R42). -/
def decodeTableWord (nbits w : Nat) : Option Instr :=
  match decode [highByte (tableWord nbits w), lowByte (tableWord nbits w)] with
  | .instr i _ => some i
  | .rejected _ => none

end Sys2Proof
end

