-- ==== Sys2Proof/Config.lean ====
section
/-! DEFINITION. What stays open in the machine: the one free value. The named constants of 00_scope.md rule R4 that are
numbers stand in `Sys2Proof/Machine/Params.lean`, where a repair can reach them, and the sizes in `Sys2Proof/Word.lean`. -/

namespace Sys2Proof.Config

/-- The byte `rnd` that the random source outside the block hands to the k-th `Cxkk` that runs. It has no body: "a free
input of each step under no law (a draw)" (R28, R143). DESIGN CHOICE of the form (log entry 1): a counter in State says
which draw comes next, and nothing can be proved about the value. -/
opaque randomByte : Nat → Byte

end Sys2Proof.Config
end

