-- ==== Sys2Proof/Machine/Params.lean ====
section
/-! DEFINITION. The named constants of the configuration (00_scope.md rule R4): the address map, the font and the timers'
interval. They stand under `Machine/` so that a repair can reach them; the sizes of stored things are in
`Sys2Proof/Word.lean`. -/

namespace Sys2Proof.Config

/-- `MEM_SIZE`: the bytes of memory are those at addresses 0 to `MEM_SIZE - 1` (R4, R16). -/
@[simp] abbrev memSize : Nat := 4095

/-- `MEM_TOP`: the last address that exists (R4, R40). -/
@[simp] abbrev memTop : Nat := 0xFFE

/-- `PROG_BASE`: the first address of program memory, the load address and the reset pc (R4). -/
@[simp] abbrev progBase : Nat := 0x200

/-- `PC_LIMIT`: the exclusive upper bound of a legal pc (R4, R14). -/
@[simp] abbrev pcLimit : Nat := 0xFFF

/-- `MAX_IMAGE = PC_LIMIT - PROG_BASE`: the largest image `Load` accepts (R4, R231). -/
@[simp] abbrev maxImage : Nat := 3583

/-- `FONT_BASE`: the address of glyph 0 (R4). -/
@[simp] abbrev fontBase : Nat := 0x000

/-- `GLYPH_BYTES`: the bytes of a glyph (R4). -/
@[simp] abbrev glyphBytes : Nat := 5

/-- `FONT_END`: the last address of the reserved font region (R4, R17). -/
@[simp] abbrev fontEnd : Nat := 0x1FF

/-- `STACK_CAP`: how many values the call stack can save (R4, R15). -/
@[simp] abbrev stackCap : Nat := 16

/-- Three times `FRAME_MS`: the frame interval is exactly 50/3 ms, so times are kept in thirds of a millisecond (R4, R210). -/
@[simp] abbrev frameThirds : Nat := 50

/-- `FONT`, glyph by glyph (R17). PRESUMED (log entry 2): the source gives no font byte; these are the conventional ones
that 93_implementation_defined.md G1 lists. -/
def font : List Byte :=
  [0xF0, 0x90, 0x90, 0x90, 0xF0] ++ [0x20, 0x60, 0x20, 0x20, 0x70] ++ [0xF0, 0x10, 0xF0, 0x80, 0xF0] ++
  [0xF0, 0x10, 0xF0, 0x10, 0xF0] ++ [0x90, 0x90, 0xF0, 0x10, 0x10] ++ [0xF0, 0x80, 0xF0, 0x10, 0xF0] ++
  [0xF0, 0x80, 0xF0, 0x90, 0xF0] ++ [0xF0, 0x10, 0x20, 0x40, 0x40] ++ [0xF0, 0x90, 0xF0, 0x90, 0xF0] ++
  [0xF0, 0x90, 0xF0, 0x10, 0xF0] ++ [0xF0, 0x90, 0xF0, 0x90, 0x90] ++ [0xE0, 0x90, 0xE0, 0x90, 0xE0] ++
  [0xF0, 0x80, 0x80, 0x80, 0xF0] ++ [0xE0, 0x90, 0x90, 0x90, 0xE0] ++ [0xF0, 0x80, 0xF0, 0x80, 0xF0] ++
  [0xF0, 0x80, 0xF0, 0x80, 0x80]

/-- `RESET_MEM`: the byte every address outside the glyphs holds after reset (R31; log entry 3, the spec's decision D2). -/
def resetMemByte : Byte := 0

/-- What the address `a` holds after `Reset`, hence what an unlisted address of `Memory` reads as: the font from
`FONT_BASE` on, then `RESET_MEM` (R31, R45). -/
def resetByte (a : Nat) : Byte := font.getD (a - fontBase) resetMemByte

end Sys2Proof.Config
end

