-- ==== Sys2Proof/Machine/State.lean ====
section
/-! DEFINITION. The machine's state as plain data (10_state.md), the kinds of fatal fault, the ways an operation can stop
outside the machine, and the state after `Reset`. -/

namespace Sys2Proof.Machine

/-- The run state (R21). -/
inductive Phase where
  /-- Constructed, nothing loaded. -/
  | fresh
  /-- Loaded, executing. -/
  | running
  /-- An `Fx0A` is waiting for a key press. -/
  | awaitKey
  /-- A fatal fault happened. -/
  | halted
  deriving DecidableEq, Repr

/-- What the `fault` register records (R23, R200): the spec's own fatal faults. They are state, not outcomes: a fault's
entry is the halt, a next state (R202). -/
inductive FaultKind where
  /-- Code 0: no fault. -/
  | none
  /-- Code 1: program image too large. -/
  | loadFault
  /-- Code 2: program counter directed outside `[0x200, 0xFFF)`. -/
  | controlFlowFault
  /-- Code 3: push beyond capacity 16. -/
  | stackOverflow
  /-- Code 4: pop from empty. -/
  | stackUnderflow
  /-- Code 5: a data access or a fetch outside memory, or a store into the font region. -/
  | memoryFault
  deriving DecidableEq, Repr

/-- Memory as the list of the bytes that differ from what reset leaves, in one canonical form: addresses strictly rising,
no entry equal to what an unlisted address reads as (`Memory.wf` in `Machine/Ops.lean`). -/
abbrev Memory := List Host.Cell

/-- Why a step could stop with a fault of the model's own. There is no constructor: every fatal fault the spec gives is
entered as it says (R202, a next state in phase `HALTED`), so no step of this machine ends outside it. Safe. -/
inductive Fault
  deriving DecidableEq, Repr

/-- Why the model gives an operation no meaning. Each is safe: it forbids what the spec leaves without a meaning. -/
inductive Refusal where
  /-- An instruction with no meaning yet, raised by an arm of `exec` only; no arm raises it now. Safe. -/
  | notModelled (mnemonic : String)
  /-- Raised by the host operation `Load` in a phase other than `FRESH`: "a model refuses it" (R233, U5). Safe. -/
  | loadOutsideFresh
  /-- Raised by the host operation `AdvanceTimers` on a timestamp below the last one (R214, U6). Safe. -/
  | timestampDecreased
  deriving DecidableEq, Repr

/-- All the state of the block (R10 to R26). "Nothing else persists from one operation to the next"; `draws` alone is the
model's own. -/
structure State where
  /-- The general registers `V0` to `VF` (R10, R11). -/
  V : RegFile
  /-- The index register (R12). -/
  I : Word
  /-- The program counter (R13, R14). -/
  pc : Word
  /-- The saved program-counter values, oldest first; slots from `sp` on are stale (R15). -/
  stack : CallStack
  /-- The number of saved values, 0 to 16 (R15). -/
  sp : Fin 17
  /-- The 4095 bytes at `0x000` to `0xFFE` (R16). -/
  mem : Memory
  /-- The framebuffer, `fb[c][r]` (R18). -/
  fb : Framebuffer
  /-- The keyboard flags (R19). -/
  keys : Keyboard
  /-- The delay timer (R20). -/
  dt : Byte
  /-- The sound timer (R20). -/
  st : Byte
  /-- The run state (R21). -/
  phase : Phase
  /-- The register that a key wait will write (R22). -/
  awaitX : RegIdx
  /-- Which fatal fault halted the machine (R23). -/
  fault : FaultKind
  /-- `t_valid`: a baseline timestamp has been established (R25). -/
  tValid : Bool
  /-- `t_last`: the timestamp of the previous `AdvanceTimers` (R25). -/
  tLast : Nat
  /-- `3 * t_rem`, an integer 0 to 49: the time not yet converted, in thirds of a millisecond (R25). -/
  tRem3 : Fin 50
  /-- THE MODEL'S OWN: how many random bytes `Cxkk` has used, the argument of `Config.randomByte` (R28; log entry 1). -/
  draws : Nat
  deriving DecidableEq, Repr

/-- The state after `Reset` (R31, R230). The source names the font, the framebuffer, the pc, the empty stack and the run
state; every other zero is the spec's decision D2 (log entry 3), and `draws` is the model's own (log entry 1). -/
def State.reset : State where
  V := .replicate 16 0
  I := 0
  pc := 0x200
  stack := .replicate 16 0
  sp := 0
  mem := []
  fb := .replicate 64 (.replicate 32 false)
  keys := .replicate 16 false
  dt := 0
  st := 0
  phase := .fresh
  awaitX := 0
  fault := .none
  tValid := false
  tLast := 0
  tRem3 := 0
  draws := 0

end Sys2Proof.Machine
end

