-- ==== Sys2Proof/Machine/Ops.lean ====
section
/-! DEFINITION. The operations every meaning is built from: memory (20_memory.md), the fatal fault and the write of the pc
(40_step_cycle.md, 60_exceptions.md), the call stack, the framebuffer and the fetch. -/

namespace Sys2Proof.Machine

/-! ### Memory -/

/-- The listed byte at an address. -/
def Memory.lookup : Memory → Nat → Option Byte
  | [], _ => none
  | (k, b) :: rest, a => if k = a then some b else Memory.lookup rest a

/-- `mem[a]`: the listed byte, else what reset left there. -/
def Memory.byteAt (m : Memory) (a : Nat) : Byte := (m.lookup a).getD (Config.resetByte a)

/-- `mem[a] <- b` on the list, keeping its canonical form: the reset byte is never listed. -/
def Memory.put : Memory → Nat → Byte → Memory
  | [], a, b => if b = Config.resetByte a then [] else [(a, b)]
  | (k, c) :: rest, a, b =>
    if a < k then (if b = Config.resetByte a then (k, c) :: rest else (a, b) :: (k, c) :: rest)
    else if a = k then (if b = Config.resetByte a then rest else (a, b) :: rest)
    else (k, c) :: Memory.put rest a b

/-- Canonical from the address `lo` on: addresses rise, exist, and hold a byte other than the reset byte. -/
def Memory.wfFrom (lo : Nat) : Memory → Bool
  | [] => true
  | (a, b) :: rest => decide (lo ≤ a) && decide (a < Config.memSize) && b != Config.resetByte a && Memory.wfFrom (a + 1) rest

/-- The canonical form of memory. -/
def Memory.wf (m : Memory) : Bool := m.wfFrom 0

/-- `MemRead(addr, 1)`: the byte, or nothing where R46 raises `MemoryFault`. -/
def Memory.read (m : Memory) (a : Nat) : Option Byte := if a ≤ Config.memTop then some (m.byteAt a) else none

/-- `MemWrite(addr, 1, v)`: the memory after it, or nothing where R47 raises `MemoryFault`. -/
def Memory.write (m : Memory) (a : Nat) (b : Byte) : Option Memory :=
  if Config.progBase ≤ a ∧ a ≤ Config.memTop then some (m.put a b) else none

/-- R48's range test for a read of `count` bytes at `base`; a read of zero bytes accesses nothing. -/
def readRangeOk (base count : Nat) : Bool := count == 0 || decide (base + count - 1 ≤ Config.memTop)

/-- R48's range test for a write of `count` bytes at `base`. -/
def writeRangeOk (base count : Nat) : Bool :=
  count == 0 || (decide (Config.progBase ≤ base) && decide (base + count - 1 ≤ Config.memTop))

/-- The bytes at `base`, `base + 1`, …, ascending (R41). -/
def Memory.bytesAt (m : Memory) (base : Nat) : Nat → List Byte
  | 0 => []
  | count + 1 => m.byteAt base :: Memory.bytesAt m (base + 1) count

/-- A list of bytes put at `base`, `base + 1`, …, ascending (R41). -/
def Memory.putBytes (m : Memory) (base : Nat) : List Byte → Memory
  | [] => m
  | b :: bs => Memory.putBytes (m.put base b) (base + 1) bs

/-- A read of several bytes: the whole range is checked first (R48). -/
def Memory.readBytes (m : Memory) (base count : Nat) : Option (List Byte) :=
  if readRangeOk base count then some (m.bytesAt base count) else none

/-- A write of several bytes: the whole range is checked before any byte changes (R48). -/
def Memory.writeBytes (m : Memory) (base : Nat) (bs : List Byte) : Option Memory :=
  if writeRangeOk base bs.length then some (m.putBytes base bs) else none

/-- The memory of the state replaced. -/
def State.setMem (s : State) (m : Memory) : State := { s with mem := m }

/-! ### The fatal fault and the program counter -/

/-- The state `raise K` leaves: `fault <- K`, `phase <- HALTED`, nothing else (R202). There is no return from it: "no
return-from-trap instruction", only `Reset` leaves `HALTED` (R204). -/
def State.raise (s : State) (k : FaultKind) : State := { s with fault := k, phase := .halted }

/-- `raise K` inside an operation: the machine goes on, halted, with what was written before it (R86, R202). -/
def raiseFault (k : FaultKind) (s : State) : Host.Outcome State Fault Refusal := .next (s.raise k)

/-- The legal values of `pc` (R14), on the untruncated value. -/
abbrev InRange (a : Nat) : Prop := Config.progBase ≤ a ∧ a < Config.pcLimit

/-- `pc` replaced. -/
def State.setPc (s : State) (a : Word) : State := { s with pc := a }

/-- The last action of a step: `if not InRange(next): raise ControlFlowFault`, then `pc <- next` (R85). -/
def finish (next : Nat) (s : State) : Host.Outcome State Fault Refusal :=
  if InRange next then .next (s.setPc (BitVec.ofNat 16 next)) else raiseFault .controlFlowFault s

/-- The sequential advance, `next = pc + 2` (R83). -/
def advance (s : State) : Host.Outcome State Fault Refusal := finish (s.pc.toNat + 2) s

/-- A skip: `next <- pc + 4` when its condition holds, else the sequential advance (R84). -/
def skipIf (cond : Bool) (s : State) : Host.Outcome State Fault Refusal :=
  finish (s.pc.toNat + (if cond then 4 else 2)) s

/-! ### The call stack (R15) -/

/-- Push: `stack[sp] <- v; sp <- sp + 1`, or nothing when 16 values are saved (R104). -/
def State.push (s : State) (v : Word) : Option State :=
  if h : s.sp.val < Config.stackCap then
    some { s with stack := s.stack.set s.sp.val v h, sp := ⟨s.sp.val + 1, Nat.succ_lt_succ h⟩ }
  else none

/-- Pop: `sp <- sp - 1` and the value `stack[sp]`, or nothing when the stack is empty; the slot keeps its value (R101). -/
def State.pop (s : State) : Option (Word × State) :=
  if h : 0 < s.sp.val then
    some (s.stack[s.sp.val - 1]'(by omega), { s with sp := ⟨s.sp.val - 1, by omega⟩ })
  else none

/-! ### The framebuffer (R18, R151) -/

/-- The pixel `fb[c][r]`. -/
def Framebuffer.pixel (fb : Framebuffer) (c : Fin 64) (r : Fin 32) : Bool := fb[c.val][r.val]

/-- `fb[c][r] <- fb[c][r] ^ 1`. -/
def Framebuffer.flip (fb : Framebuffer) (c : Fin 64) (r : Fin 32) : Framebuffer :=
  fb.set c.val (fb[c.val].set r.val (!Framebuffer.pixel fb c r) r.isLt) c.isLt

/-- Every pixel unlit (R100). -/
def Framebuffer.clear : Framebuffer := .replicate 64 (.replicate 32 false)

/-- A column coordinate, wrapping (R151). -/
def wrapColumn (c : Nat) : Fin 64 := ⟨c % 64, Nat.mod_lt _ (by decide)⟩

/-- A row coordinate, wrapping (R151). -/
def wrapRow (r : Nat) : Fin 32 := ⟨r % 32, Nat.mod_lt _ (by decide)⟩

/-- The framebuffer of the state replaced. -/
def State.setFb (s : State) (fb : Framebuffer) : State := { s with fb := fb }

/-! ### Fetch (R81) and placing an instruction where the next step fetches it -/

/-- `MemRead(pc, 2)`: the word at `pc`, big-endian, or nothing where the read raises `MemoryFault` (R42, R46, R81). -/
def State.fetchWord (s : State) : Option Word :=
  match s.mem.read s.pc.toNat, s.mem.read (s.pc.toNat + 1) with
  | some hi, some lo => some (wordOfBytes hi lo)
  | _, _ => none

/-- A word stored at `pc`, high byte first, and the machine running: what a `Load` of it at the pc would leave (R231; log
entry 4). Where the two bytes at `pc` do not both exist nothing can be fetched, and nothing is placed. -/
def State.placeWord (s : State) (w : Word) : State :=
  if s.pc.toNat + 1 ≤ Config.memTop then
    { s with mem := s.mem.putBytes s.pc.toNat [highByte w, lowByte w], phase := .running, fault := .none }
  else s

end Sys2Proof.Machine
end

