-- ==== Sys2Proof/Machine/Operands.lean ====
section
/-! DEFINITION. Every operand form (30_encoding.md rules R61, R63): a general register, an immediate, an address, the index
register, the block `V0` to `Vx`, the key and the glyph a register names. Every immediate is the unsigned value of its bits,
"with no sign extension, no scaling and no shifting" (R63). -/

namespace Sys2Proof.Machine

/-- `V[x]` (R10). -/
def State.reg (s : State) (x : RegIdx) : Byte := s.V[x.val]

/-- `V[x] <- b` (R10: every one of the sixteen is writable). -/
def State.setReg (s : State) (x : RegIdx) (b : Byte) : State := { s with V := s.V.set x.val b x.isLt }

/-- `I <- a` (R12). -/
def State.setI (s : State) (a : Word) : State := { s with I := a }

/-- `dt <- b` (R20). -/
def State.setDt (s : State) (b : Byte) : State := { s with dt := b }

/-- `st <- b` (R20). -/
def State.setSt (s : State) (b : Byte) : State := { s with st := b }

/-- `nnn` as a target or an addend: its unsigned value (R63). -/
def targetOf (nnn : Addr12) : Nat := nnn.toNat

/-- `zext_16(nnn)` (R63). -/
def addrWord (nnn : Addr12) : Word := BitVec.ofNat 16 nnn.toNat

/-- `V[0] + nnn`, not truncated (R142). -/
def offsetTarget (s : State) (nnn : Addr12) : Nat := (s.reg 0).toNat + nnn.toNat

/-- `V[x][3:0]`, the low four bits of a byte. -/
def lowNibble (b : Byte) : Fin 16 := ⟨b.toNat % 16, Nat.mod_lt _ (by decide)⟩

/-- The key a register value names: its low nibble (R163, the spec's decision D14). -/
def keyNamed (b : Byte) : KeyId := lowNibble b

/-- Whether the key named by a register value is held (R160, R163). -/
def State.keyHeld (s : State) (b : Byte) : Bool := s.keys[(keyNamed b).val]

/-- The address of the glyph for a register value's low nibble, `V[x][3:0] * 5` (R175). -/
def glyphAddr (b : Byte) : Word := BitVec.ofNat 16 (Config.fontBase + (lowNibble b).val * Config.glyphBytes)

/-- The hundreds, tens and ones digits of a byte, most significant first (R176). -/
def bcdDigits (b : Byte) : List Byte :=
  [BitVec.ofNat 8 (b.toNat / 100), BitVec.ofNat 8 (b.toNat / 10 % 10), BitVec.ofNat 8 (b.toNat % 10)]

/-- `V[0]` to `V[x]`, in that order (R177). -/
def State.regBlock (s : State) (x : RegIdx) : List Byte := s.V.toList.take (x.val + 1)

/-- A list of bytes written to `V[k]`, `V[k+1]`, …, ascending; a number above 15 names no register. -/
def setBlock (V : RegFile) (k : Nat) : List Byte → RegFile
  | [] => V
  | b :: bs => setBlock (V.setIfInBounds k b) (k + 1) bs

/-- `V[0]` to `V[x]` loaded from a list of `x + 1` bytes (R178). -/
def State.setRegBlock (s : State) (bs : List Byte) : State := { s with V := setBlock s.V 0 bs }

end Sys2Proof.Machine
end

