-- ==== Sys2Proof/Machine/Flags.lean ====
section
/-! DEFINITION. The flag and every computation of it (10_state.md rule R11, 43_alu.md rule R119): `VF` is the machine's only
flag, written with 0 or 1 by exactly six instructions, after the result. -/

namespace Sys2Proof.Machine

/-- A flag's value as a byte, 0 or 1 (R11). -/
def flagByte (f : Bool) : Byte := if f then 1 else 0

/-- `V[15] <- f` (R11). -/
def State.setFlag (s : State) (f : Bool) : State := s.setReg vf (flagByte f)

/-- The result to `V[x]`, then the flag to `VF`: "register 0xF is written last" (R119), so with `x = 15` the flag stays. -/
def State.setResultFlag (s : State) (x : RegIdx) (result : Byte) (f : Bool) : State := (s.setReg x result).setFlag f

/-- Carry of `a + b`: the 8-bit sum overflowed (R124). -/
def carryOf (a b : Byte) : Bool := decide (a.toNat + b.toNat > 255)

/-- No borrow of `a - b`: `a > b`, strictly (R125, R127). -/
def noBorrow (a b : Byte) : Bool := decide (a.toNat > b.toNat)

/-- The bit a right shift by one shifts out (R126). -/
def shiftedOutRight (a : Byte) : Bool := a.getLsbD 0

/-- The bit a left shift by one shifts out (R128). -/
def shiftedOutLeft (a : Byte) : Bool := a.getLsbD 7

/-- `(a + b) mod 256` (R114, R124). -/
def addByte (a b : Byte) : Byte := BitVec.ofNat 8 (a.toNat + b.toNat)

/-- `(a - b) mod 256`: `a - b` if `a >= b`, else `a - b + 256` (R125). -/
def subByte (a b : Byte) : Byte := BitVec.ofNat 8 (a.toNat + 256 - b.toNat)

/-- `a >> 1`, logical (R126). -/
def shiftRight (a : Byte) : Byte := BitVec.ofNat 8 (a.toNat / 2)

/-- `(a << 1) mod 256` (R128). -/
def shiftLeft (a : Byte) : Byte := BitVec.ofNat 8 (a.toNat * 2)

/-! ### The collision detector (R150 to R153) -/

/-- The framebuffer and `hit` while a sprite is drawn (R150). -/
abbrev Canvas := Framebuffer × Bool

/-- One set sprite bit at `(c, r)`: a lit pixel sets `hit`, then the pixel flips (R150). -/
def drawBit (c : Fin 64) (r : Fin 32) (p : Canvas) : Canvas :=
  (Framebuffer.flip p.1 c r, p.2 || Framebuffer.pixel p.1 c r)

/-- Bits `k - 1` down to 0 of the sprite row at row coordinate `y`: bit `j` goes to column `cx + (7 - j)` (R150, R151). -/
def drawRow (row : Byte) (cx y : Nat) : Nat → Canvas → Canvas
  | 0, p => p
  | j + 1, p =>
    drawRow row cx y j (if row.getLsbD j then drawBit (wrapColumn (cx + (7 - j))) (wrapRow y) p else p)

/-- The sprite's rows from row coordinate `y` on (R150). -/
def drawRows (cx : Nat) : Nat → List Byte → Canvas → Canvas
  | _, [], p => p
  | y, row :: rows, p => drawRows cx (y + 1) rows (drawRow row cx y 8 p)

end Sys2Proof.Machine
end

