-- ==== Sys2Proof/Machine/Alu.lean ====
section
/-! DEFINITION. Family 0x8 (register ALU): 43_alu.md rules R119 to R129. Both sources are read from the state before the
instruction (R119: "compute source operands into local temporaries"); the five flag-setting operations go through
`setResultFlag`, which writes `VF` last. -/

namespace Sys2Proof.Machine

/-- `8xy0` LD Vx, Vy (R120). -/
def execLdReg (x y : RegIdx) (s : State) : Host.Outcome State Fault Refusal := advance (s.setReg x (s.reg y))

/-- `8xy1` OR Vx, Vy; `VF` is not a flag here (R121). -/
def execOrReg (x y : RegIdx) (s : State) : Host.Outcome State Fault Refusal := advance (s.setReg x (s.reg x ||| s.reg y))

/-- `8xy2` AND Vx, Vy; `VF` is not a flag here (R122). -/
def execAndReg (x y : RegIdx) (s : State) : Host.Outcome State Fault Refusal := advance (s.setReg x (s.reg x &&& s.reg y))

/-- `8xy3` XOR Vx, Vy; `VF` is not a flag here (R123). -/
def execXorReg (x y : RegIdx) (s : State) : Host.Outcome State Fault Refusal := advance (s.setReg x (s.reg x ^^^ s.reg y))

/-- `8xy4` ADD Vx, Vy with the carry (R124). -/
def execAddReg (x y : RegIdx) (s : State) : Host.Outcome State Fault Refusal :=
  advance (s.setResultFlag x (addByte (s.reg x) (s.reg y)) (carryOf (s.reg x) (s.reg y)))

/-- `8xy5` SUB Vx, Vy with no borrow (R125). -/
def execSub (x y : RegIdx) (s : State) : Host.Outcome State Fault Refusal :=
  advance (s.setResultFlag x (subByte (s.reg x) (s.reg y)) (noBorrow (s.reg x) (s.reg y)))

/-- `8xy6` SHR Vx: `y` is not used (R126, the spec's decision D15). -/
def execShr (x _y : RegIdx) (s : State) : Host.Outcome State Fault Refusal :=
  advance (s.setResultFlag x (shiftRight (s.reg x)) (shiftedOutRight (s.reg x)))

/-- `8xy7` SUBN Vx, Vy with no borrow (R127). -/
def execSubn (x y : RegIdx) (s : State) : Host.Outcome State Fault Refusal :=
  advance (s.setResultFlag x (subByte (s.reg y) (s.reg x)) (noBorrow (s.reg y) (s.reg x)))

/-- `8xyE` SHL Vx: `y` is not used (R128, the spec's decision D15). -/
def execShl (x _y : RegIdx) (s : State) : Host.Outcome State Fault Refusal :=
  advance (s.setResultFlag x (shiftLeft (s.reg x)) (shiftedOutLeft (s.reg x)))

/-- `8xyn` with any other `n`: no operation (R129). -/
def execNop8 (_x _y : RegIdx) (_n : Nibble) (s : State) : Host.Outcome State Fault Refusal := advance s

end Sys2Proof.Machine
end

