-- ==== Sys2Proof/Machine/Draw.lean ====
section
/-! DEFINITION. Family 0xD, draw: 45_draw.md rules R150 to R153. -/

namespace Sys2Proof.Machine

/-- `Dxyn` DRW Vx, Vy, nibble: the `n` sprite bytes at `I` drawn with their top-left pixel at `(V[x], V[y])`, then `VF` the
collision; if the bytes do not all exist, `MemoryFault` before anything (R150). -/
def execDrw (x y : RegIdx) (n : Nibble) (s : State) : Host.Outcome State Fault Refusal :=
  match s.mem.readBytes s.I.toNat n.toNat with
  | none => raiseFault .memoryFault s
  | some rows =>
    let drawn := drawRows (s.reg x).toNat (s.reg y).toNat rows (s.fb, false)
    advance ((s.setFb drawn.1).setFlag drawn.2)

end Sys2Proof.Machine
end

