-- ==== Sys2Proof/Machine/IndexJumpRandom.lean ====
section
/-! DEFINITION. Families 0x9, 0xA, 0xB, 0xC: 44_sne_index_jump_random.md rules R140 to R143. -/

namespace Sys2Proof.Machine

/-- `9xy-` SNE Vx, Vy (R140). -/
def execSneReg (x y : RegIdx) (s : State) : Host.Outcome State Fault Refusal := skipIf (s.reg x != s.reg y) s

/-- `Annn` LD I, addr (R141). -/
def execLdI (nnn : Addr12) (s : State) : Host.Outcome State Fault Refusal := advance (s.setI (addrWord nnn))

/-- `Bnnn` JP V0, addr: always register 0, the sum not wrapped (R142). -/
def execJpV0 (nnn : Addr12) (s : State) : Host.Outcome State Fault Refusal := finish (offsetTarget s nnn) s

/-- The next random byte taken: the source stands one draw further (R28; log entry 1). -/
def State.countDraw (s : State) : State := { s with draws := s.draws + 1 }

/-- `Cxkk` with its random input given: `V[x] <- rnd & kk` (R143). -/
def execRndWith (rnd : Byte) (x : RegIdx) (kk : Byte) (s : State) : Host.Outcome State Fault Refusal :=
  advance ((s.setReg x (rnd &&& kk)).countDraw)

/-- `Cxkk` RND Vx, byte, its random input the free value of this draw (R28, R143). -/
def execRnd (x : RegIdx) (kk : Byte) (s : State) : Host.Outcome State Fault Refusal :=
  execRndWith (Config.randomByte s.draws) x kk s

end Sys2Proof.Machine
end

