-- ==== Sys2Proof/Machine/KeySkip.lean ====
section
/-! DEFINITION. Family 0xE, key skips: 46_key_skip.md rules R160 to R163. -/

namespace Sys2Proof.Machine

/-- `Ex9E` SKP Vx: skip if the key named by `V[x]` is held (R160). -/
def execSkp (x : RegIdx) (s : State) : Host.Outcome State Fault Refusal := skipIf (s.keyHeld (s.reg x)) s

/-- `ExA1` SKNP Vx: skip if it is not held (R161). -/
def execSknp (x : RegIdx) (s : State) : Host.Outcome State Fault Refusal := skipIf (!s.keyHeld (s.reg x)) s

/-- `Exkk` with any other `kk`: no operation (R162). -/
def execNopE (_x : RegIdx) (_kk : Byte) (s : State) : Host.Outcome State Fault Refusal := advance s

end Sys2Proof.Machine
end

