-- ==== Sys2Proof/Machine/Misc.lean ====
section
/-! DEFINITION. Family 0xF: timers, key wait, index arithmetic, font, BCD, register block moves
(47_misc_timers_memory.md rules R170 to R179). -/

namespace Sys2Proof.Machine

/-- `Fx07` LD Vx, DT (R170). -/
def execLdVxDT (x : RegIdx) (s : State) : Host.Outcome State Fault Refusal := advance (s.setReg x s.dt)

/-- `await_x <- x; phase <- AWAIT_KEY` (R171). -/
def State.awaitKeyInto (s : State) (x : RegIdx) : State := { s with awaitX := x, phase := .awaitKey }

/-- `Fx0A` LD Vx, K: enter the key wait; the key press writes the register later (R171, R217). -/
def execLdVxK (x : RegIdx) (s : State) : Host.Outcome State Fault Refusal := advance (s.awaitKeyInto x)

/-- `Fx15` LD DT, Vx (R172). -/
def execLdDTVx (x : RegIdx) (s : State) : Host.Outcome State Fault Refusal := advance (s.setDt (s.reg x))

/-- `Fx18` LD ST, Vx (R173). -/
def execLdSTVx (x : RegIdx) (s : State) : Host.Outcome State Fault Refusal := advance (s.setSt (s.reg x))

/-- `Fx1E` ADD I, Vx: 16-bit wrap, no flag (R174). -/
def execAddI (x : RegIdx) (s : State) : Host.Outcome State Fault Refusal :=
  advance (s.setI (BitVec.ofNat 16 (s.I.toNat + (s.reg x).toNat)))

/-- `Fx29` LD F, Vx (R175). -/
def execLdF (x : RegIdx) (s : State) : Host.Outcome State Fault Refusal := advance (s.setI (glyphAddr (s.reg x)))

/-- `Fx33` LD B, Vx: three digits at `I`, the whole range checked first (R176). -/
def execLdB (x : RegIdx) (s : State) : Host.Outcome State Fault Refusal :=
  match s.mem.writeBytes s.I.toNat (bcdDigits (s.reg x)) with
  | none => raiseFault .memoryFault s
  | some m => advance (s.setMem m)

/-- `Fx55` LD [I], Vx: `V[0]` to `V[x]` at `I`, the whole range checked first; `I` stays (R177). -/
def execStoreRegs (x : RegIdx) (s : State) : Host.Outcome State Fault Refusal :=
  match s.mem.writeBytes s.I.toNat (s.regBlock x) with
  | none => raiseFault .memoryFault s
  | some m => advance (s.setMem m)

/-- `Fx65` LD Vx, [I]: `V[0]` to `V[x]` from `I`, the whole range checked first; `I` stays (R178). -/
def execLoadRegs (x : RegIdx) (s : State) : Host.Outcome State Fault Refusal :=
  match s.mem.readBytes s.I.toNat (x.val + 1) with
  | none => raiseFault .memoryFault s
  | some bs => advance (s.setRegBlock bs)

/-- `Fxkk` with any other `kk`: no operation (R179). -/
def execNopF (_x : RegIdx) (_kk : Byte) (s : State) : Host.Outcome State Fault Refusal := advance s

end Sys2Proof.Machine
end

