-- ==== Sys2Proof/Machine/SkipLoadAdd.lean ====
section
/-! DEFINITION. Families 0x3, 0x4, 0x5 (skips), 0x6 (load immediate), 0x7 (add immediate): 42_skip_load_add.md. -/

namespace Sys2Proof.Machine

/-- `3xkk` SE Vx, byte (R110). -/
def execSeImm (x : RegIdx) (kk : Byte) (s : State) : Host.Outcome State Fault Refusal := skipIf (s.reg x == kk) s

/-- `4xkk` SNE Vx, byte (R111). -/
def execSneImm (x : RegIdx) (kk : Byte) (s : State) : Host.Outcome State Fault Refusal := skipIf (s.reg x != kk) s

/-- `5xy-` SE Vx, Vy (R112). -/
def execSeReg (x y : RegIdx) (s : State) : Host.Outcome State Fault Refusal := skipIf (s.reg x == s.reg y) s

/-- `6xkk` LD Vx, byte (R113). -/
def execLdImm (x : RegIdx) (kk : Byte) (s : State) : Host.Outcome State Fault Refusal := advance (s.setReg x kk)

/-- `7xkk` ADD Vx, byte: wraps, and `VF` is not a flag here (R114). -/
def execAddImm (x : RegIdx) (kk : Byte) (s : State) : Host.Outcome State Fault Refusal :=
  advance (s.setReg x (addByte (s.reg x) kk))

end Sys2Proof.Machine
end

