-- ==== Sys2Proof/Machine/SystemJumpCall.lean ====
section
/-! DEFINITION. Families 0x0 (system), 0x1 (jump), 0x2 (call): 41_system_jump_call.md rules R100 to R104. -/

namespace Sys2Proof.Machine

/-- `00E0` CLS: every pixel unlit; `VF` is not written (R100). -/
def execCls (s : State) : Host.Outcome State Fault Refusal := advance (s.setFb Framebuffer.clear)

/-- `00EE` RET: pop the address of the CALL and resume after it; an empty stack raises `StackUnderflow` (R101). -/
def execRet (s : State) : Host.Outcome State Fault Refusal :=
  match s.pop with
  | none => raiseFault .stackUnderflow s
  | some (t, s') => finish (t.toNat + 2) s'

/-- `0nnn` SYS addr: no operation (R102). -/
def execSys (_nnn : Addr12) (s : State) : Host.Outcome State Fault Refusal := advance s

/-- `1nnn` JP addr (R103). -/
def execJp (nnn : Addr12) (s : State) : Host.Outcome State Fault Refusal := finish (targetOf nnn) s

/-- `2nnn` CALL addr: push the CALL's own address, then jump; a full stack raises `StackOverflow` before anything (R104). -/
def execCall (nnn : Addr12) (s : State) : Host.Outcome State Fault Refusal :=
  match s.push s.pc with
  | none => raiseFault .stackOverflow s
  | some s' => finish (targetOf nnn) s'

end Sys2Proof.Machine
end

