-- ==== Sys2Proof/Machine/Cycle.lean ====
section
/-! DEFINITION. The Step operation's frame: the phase gate, the fetch, the decode, the execution (40_step_cycle.md rules R80
to R82). -/

namespace Sys2Proof.Machine

/-- Fetch the word at `pc` and run the instruction it selects; a fetch outside memory raises `MemoryFault` before anything
is decoded (R81, R82). -/
def fetchAndRun (run : Instr → State → Host.Outcome State Fault Refusal) (s : State) : Host.Outcome State Fault Refusal :=
  match s.fetchWord with
  | none => raiseFault .memoryFault s
  | some w => run (decodeWord w) s

/-- Step with a way to run the instruction: unless the phase is `RUNNING` it "returns and changes nothing at all" (R80). -/
def cycleWith (run : Instr → State → Host.Outcome State Fault Refusal) (s : State) : Host.Outcome State Fault Refusal :=
  match s.phase with
  | .running => fetchAndRun run s
  | .fresh | .awaitKey | .halted => .next s

/-- Run an instruction with the random byte of this step given: only `Cxkk` uses it (R28, R143). -/
def execWith (rnd : Byte) (i : Instr) (s : State) : Host.Outcome State Fault Refusal :=
  match i with
  | .rnd x kk => execRndWith rnd x kk s
  | other => exec other s

/-- `Step(rnd)` as the host invokes it, the random byte an input (R28, R29, R80). -/
def stepWith (rnd : Byte) (s : State) : Host.Outcome State Fault Refusal := cycleWith (execWith rnd) s

end Sys2Proof.Machine
end

