-- ==== Sys2Proof/Machine/Step.lean ====
section
/-! DEFINITION. One step of the machine, and how the host places the instruction the next step runs. -/

namespace Sys2Proof.Machine

/-- The Step operation (R80), its random input the free value `Config.randomByte` of the next draw. -/
def step (s : State) : Host.Outcome State Fault Refusal := cycleWith exec s

/-- The state with an instruction's word (numbered as the opcode table numbers it) where `step` fetches next, running. It
stands for a `Load` (R231; log entry 4): `Step` before a load does nothing (R234). -/
def State.withFetchWord (s : State) (nbits w : Nat) : State := s.placeWord (tableWord nbits w)

end Sys2Proof.Machine
end

