-- ==== Sys2Proof/Machine/HostOps.lean ====
section
/-! DEFINITION. The host's operations and reads (10_state.md rule R29, 60_exceptions.md sections 4 to 6,
70_reset_and_hazards.md): `Reset`, `Load`, `Step(rnd)`, `AdvanceTimers`, `KeyWrite`, and the three reads. Each is atomic, and
any may come between two steps (R5, R239). -/

namespace Sys2Proof.Machine

/-! ### Reset (R230) -/

/-- `Reset`: the state of R31 whatever the state was before. The random source is outside the block, so the model's counter
of its draws goes on (log entry 1). -/
def resetOp (s : State) : State := { State.reset with draws := s.draws }

/-! ### Load (R231 to R233) -/

/-- What `Load` returns to its caller (R231, R232). -/
inductive LoadReply where
  | success
  | failure
  deriving DecidableEq, Repr

/-- The state a successful load leaves: the image at `0x200`, running (R231). -/
def State.loaded (s : State) (image : List Byte) : State :=
  { s with mem := s.mem.putBytes Config.progBase image, phase := .running }

/-- `Load(image)`: success, or the load fault and a failure, or, outside `FRESH`, no meaning (R231, R232, R233). -/
def load (image : List Byte) (s : State) : Host.Outcome (LoadReply × State) Fault Refusal :=
  match s.phase with
  | .fresh =>
    if image.length ≤ Config.maxImage then .next (.success, s.loaded image)
    else .next (.failure, s.raise .loadFault)
  | .running | .awaitKey | .halted => .refused .loadOutsideFresh

/-- `Load` as an operation on the state, its reply left out. -/
def loadOp (image : List Byte) (s : State) : Host.Outcome State Fault Refusal :=
  match load image s with
  | .next r => .next r.2
  | .fault f => .fault f
  | .refused r => .refused r

/-! ### AdvanceTimers (R209 to R215) -/

/-- A timer reduced by whole frames, clamped at zero (R212). -/
def decayTimer (v : Byte) (frames : Nat) : Byte := BitVec.ofNat 8 (v.toNat - min v.toNat frames)

/-- The time not yet converted at timestamp `t`, in thirds of a millisecond (R210). -/
def State.elapsedThirds (s : State) (t : Nat) : Nat := s.tRem3.val + 3 * (t - s.tLast)

/-- The whole frames converted at timestamp `t` (R210). -/
def State.framesAt (s : State) (t : Nat) : Nat := s.elapsedThirds t / Config.frameThirds

/-- The state after the first call: the baseline, no decay (R211). -/
def State.baseline (s : State) (t : Nat) : State := { s with tValid := true, tLast := t, tRem3 := 0 }

/-- The state after a later call: the remainder carried, both timers decayed by the same frames (R210, R212). -/
def State.decayed (s : State) (t : Nat) : State :=
  { s with
    tLast := t
    tRem3 := ⟨s.elapsedThirds t % Config.frameThirds, Nat.mod_lt _ (by decide)⟩
    dt := decayTimer s.dt (s.framesAt t)
    st := decayTimer s.st (s.framesAt t) }

/-- `AdvanceTimers(t)`, the same in every phase; a decreasing timestamp has no meaning (R210 to R215). -/
def advanceTimers (t : Nat) (s : State) : Host.Outcome State Fault Refusal :=
  if s.tValid then
    if t < s.tLast then .refused .timestampDecreased else .next (s.decayed t)
  else .next (s.baseline t)

/-! ### KeyWrite (R216, R217) -/

/-- `keys[k] <- b`. -/
def State.setKey (s : State) (k : KeyId) (b : Bool) : State := { s with keys := s.keys.set k.val b k.isLt }

/-- Whether `KeyWrite(k, b)` is the key press that ends a wait (R217). -/
def State.endsWait (s : State) (k : KeyId) (b : Bool) : Bool := b && !s.keys[k.val] && s.phase == .awaitKey

/-- `KeyWrite(k, b)`: the flag, and on a press that ends a wait `V[await_x] <- k` and `phase <- RUNNING` (R216, R217). -/
def keyWrite (k : KeyId) (b : Bool) (s : State) : State :=
  if s.endsWait k b then { (s.setKey k b).setReg s.awaitX (BitVec.ofNat 8 k.val) with phase := .running }
  else s.setKey k b

/-! ### Reads (R218 to R220) -/

/-- The framebuffer read: the pixel `fb[c][r]` (R218). -/
def State.pixel (s : State) (c : Fin 64) (r : Fin 32) : Bool := Framebuffer.pixel s.fb c r

/-- The run-state read: true in `RUNNING` and `AWAIT_KEY` (R24, R219). -/
def State.run (s : State) : Bool :=
  match s.phase with
  | .running | .awaitKey => true
  | .fresh | .halted => false

/-- The code of a fault kind (R200). -/
def FaultKind.code : FaultKind → Nat
  | .none => 0
  | .loadFault => 1
  | .controlFlowFault => 2
  | .stackOverflow => 3
  | .stackUnderflow => 4
  | .memoryFault => 5

/-- The fault-kind read (R220). -/
def State.faultCode (s : State) : Nat := s.fault.code

/-! ### Any operation, and any sequence of them -/

/-- The host's operations that can change state (R29). -/
inductive HostOp where
  | reset
  | load (image : List Byte)
  | step (rnd : Byte)
  | advanceTimers (t : Nat)
  | keyWrite (k : KeyId) (b : Bool)
  deriving DecidableEq, Repr

/-- One operation. -/
def perform (op : HostOp) (s : State) : Host.Outcome State Fault Refusal :=
  match op with
  | .reset => .next (resetOp s)
  | .load image => loadOp image s
  | .step rnd => stepWith rnd s
  | .advanceTimers t => Sys2Proof.Machine.advanceTimers t s
  | .keyWrite k b => .next (Sys2Proof.Machine.keyWrite k b s)

/-- A sequence of operations in the host's order, stopping at the first that has no meaning (R239, U24). -/
def performAll : List HostOp → State → Host.Outcome State Fault Refusal
  | [], s => .next s
  | op :: ops, s =>
    match perform op s with
    | .next s' => performAll ops s'
    | .fault f => .fault f
    | .refused r => .refused r

end Sys2Proof.Machine
end

