-- ==== Sys2Proof/Safety.lean ====
section
/-! DEFINITION. What claims about the machine are stated in: the invariant of every reachable state (40_step_cycle.md rule
R89), reachability, what each instruction may write, and the pointwise meaning of a sprite. -/

namespace Sys2Proof.Machine

/-- The properties of every reachable state (R89): a legal pc, legal saved values, `fault` and `phase` agreeing, the font
region at its reset value, and memory in its canonical form (the last is the model's own). `0 <= sp <= 16` holds by type. -/
structure State.Inv (s : State) : Prop where
  pc_inRange : InRange s.pc.toNat
  saved_inRange : ∀ k : Fin 16, k.val < s.sp.val → InRange s.stack[k.val].toNat
  fault_none_iff : s.fault = .none ↔ s.phase ≠ .halted
  font_intact : ∀ a, a ≤ Config.fontEnd → s.mem.byteAt a = Config.resetByte a
  mem_wf : s.mem.wf = true

/-- A state that some sequence of the host's operations leads to from the state after `Reset` (R234). -/
def Reachable (s : State) : Prop := ∃ ops, performAll ops State.reset = .next s

/-- A run is safe when every operation in it has a meaning and no fatal fault has happened (R202, R233, R214). -/
def SafeRun (ops : List HostOp) : Prop := ∃ t, performAll ops State.reset = .next t ∧ t.fault = .none

/-- The sequential advance stays legal: the next pc is in range (R85). -/
abbrev State.CanAdvance (s : State) : Prop := InRange (s.pc.toNat + 2)

/-- Pixel `(c, r)` is targeted by a set bit of the sprite of `n` bytes at `base` drawn at `(cx, cy)`: bit `j` of row `i` goes
to `((cx + (7 - j)) mod 64, (cy + i) mod 32)` (R151). -/
def spriteBit (m : Memory) (base n cx cy : Nat) (c : Fin 64) (r : Fin 32) : Bool :=
  decide (∃ i : Fin n, ∃ j : Fin 8,
    (m.byteAt (base + i.val)).getLsbD j.val = true ∧ (cx + (7 - j.val)) % 64 = c.val ∧ (cy + i.val) % 32 = r.val)

/-! ### The opcode map (R68), for the claim that the decoder follows it -/

/-- A row of the opcode map: a word `w` selects it when `w & mask = pattern` (R68). -/
structure OpcodeRow where
  number : Nat
  pattern : Word
  mask : Word
  deriving DecidableEq, Repr

/-- The 38 rows in the order they are tried (R68). -/
def opcodeMap : List OpcodeRow :=
  [⟨1, 0x00E0#16, 0xFFFF#16⟩, ⟨2, 0x00EE#16, 0xFFFF#16⟩, ⟨3, 0x0000#16, 0xF000#16⟩, ⟨4, 0x1000#16, 0xF000#16⟩, ⟨5, 0x2000#16, 0xF000#16⟩] ++
  [⟨6, 0x3000#16, 0xF000#16⟩, ⟨7, 0x4000#16, 0xF000#16⟩, ⟨8, 0x5000#16, 0xF000#16⟩, ⟨9, 0x6000#16, 0xF000#16⟩, ⟨10, 0x7000#16, 0xF000#16⟩] ++
  [⟨11, 0x8000#16, 0xF00F#16⟩, ⟨12, 0x8001#16, 0xF00F#16⟩, ⟨13, 0x8002#16, 0xF00F#16⟩, ⟨14, 0x8003#16, 0xF00F#16⟩, ⟨15, 0x8004#16, 0xF00F#16⟩] ++
  [⟨16, 0x8005#16, 0xF00F#16⟩, ⟨17, 0x8006#16, 0xF00F#16⟩, ⟨18, 0x8007#16, 0xF00F#16⟩, ⟨19, 0x800E#16, 0xF00F#16⟩, ⟨20, 0x8000#16, 0xF000#16⟩] ++
  [⟨21, 0x9000#16, 0xF000#16⟩, ⟨22, 0xA000#16, 0xF000#16⟩, ⟨23, 0xB000#16, 0xF000#16⟩, ⟨24, 0xC000#16, 0xF000#16⟩, ⟨25, 0xD000#16, 0xF000#16⟩] ++
  [⟨26, 0xE09E#16, 0xF0FF#16⟩, ⟨27, 0xE0A1#16, 0xF0FF#16⟩, ⟨28, 0xE000#16, 0xF000#16⟩, ⟨29, 0xF007#16, 0xF0FF#16⟩, ⟨30, 0xF00A#16, 0xF0FF#16⟩] ++
  [⟨31, 0xF015#16, 0xF0FF#16⟩, ⟨32, 0xF018#16, 0xF0FF#16⟩, ⟨33, 0xF01E#16, 0xF0FF#16⟩, ⟨34, 0xF029#16, 0xF0FF#16⟩, ⟨35, 0xF033#16, 0xF0FF#16⟩] ++
  [⟨36, 0xF055#16, 0xF0FF#16⟩, ⟨37, 0xF065#16, 0xF0FF#16⟩, ⟨38, 0xF000#16, 0xF000#16⟩]

/-- The number of the first row a word selects (R68, R69). -/
def firstRow (w : Word) : Option Nat := (opcodeMap.find? fun row => w &&& row.mask == row.pattern).map OpcodeRow.number

end Sys2Proof.Machine

namespace Sys2Proof

open Machine

/-! ### What each instruction may write -/

/-- The six instructions that write `VF` as a flag (R11). -/
def Instr.writesFlag : Instr → Bool
  | .addReg _ _ | .sub _ _ | .shr _ _ | .subn _ _ | .shl _ _ | .drw _ _ _ => true
  | .cls | .ret | .sys _ | .jp _ | .call _ | .seImm _ _ | .sneImm _ _ | .seReg _ _ | .ldImm _ _ | .addImm _ _ | .ldReg _ _
  | .orReg _ _ | .andReg _ _ | .xorReg _ _ | .nop8 _ _ _ | .sneReg _ _ | .ldI _ | .jpV0 _ | .rnd _ _ | .skp _ | .sknp _
  | .nopE _ _ | .ldVxDT _ | .ldVxK _ | .ldDTVx _ | .ldSTVx _ | .addI _ | .ldF _ | .ldB _ | .storeRegs _ | .loadRegs _
  | .nopF _ _ => false

/-- Whether an instruction's rule has register `r` as a destination: its `x`, for `Fx65` every register up to `x`, and `VF`
for the flag writers (R10, R11, R178). -/
def Instr.writesReg (i : Instr) (r : RegIdx) : Bool :=
  match i with
  | .ldImm x _ | .addImm x _ | .ldReg x _ | .orReg x _ | .andReg x _ | .xorReg x _ | .rnd x _ | .ldVxDT x => r == x
  | .addReg x _ | .sub x _ | .shr x _ | .subn x _ | .shl x _ => r == x || r == vf
  | .drw _ _ _ => r == vf
  | .loadRegs x => decide (r ≤ x)
  | .cls | .ret | .sys _ | .jp _ | .call _ | .seImm _ _ | .sneImm _ _ | .seReg _ _ | .nop8 _ _ _ | .sneReg _ _ | .ldI _
  | .jpV0 _ | .skp _ | .sknp _ | .nopE _ _ | .ldVxK _ | .ldDTVx _ | .ldSTVx _ | .addI _ | .ldF _ | .ldB _ | .storeRegs _
  | .nopF _ _ => false

/-- How many bytes an instruction stores, from `I` on: three for `Fx33`, `x + 1` for `Fx55`, none for any other (R41). -/
def Instr.storedBytes : Instr → Nat
  | .ldB _ => 3
  | .storeRegs x => x.val + 1
  | .cls | .ret | .sys _ | .jp _ | .call _ | .seImm _ _ | .sneImm _ _ | .seReg _ _ | .ldImm _ _ | .addImm _ _ | .ldReg _ _
  | .orReg _ _ | .andReg _ _ | .xorReg _ _ | .addReg _ _ | .sub _ _ | .shr _ _ | .subn _ _ | .shl _ _ | .nop8 _ _ _
  | .sneReg _ _ | .ldI _ | .jpV0 _ | .rnd _ _ | .drw _ _ _ | .skp _ | .sknp _ | .nopE _ _ | .ldVxDT _ | .ldVxK _
  | .ldDTVx _ | .ldSTVx _ | .addI _ | .ldF _ | .loadRegs _ | .nopF _ _ => 0

/-- Whether an instruction assigns `next` itself: a jump, a call, a return or a skip (R83). -/
def Instr.redirects : Instr → Bool
  | .ret | .jp _ | .call _ | .jpV0 _ | .seImm _ _ | .sneImm _ _ | .seReg _ _ | .sneReg _ _ | .skp _ | .sknp _ => true
  | .cls | .sys _ | .ldImm _ _ | .addImm _ _ | .ldReg _ _ | .orReg _ _ | .andReg _ _ | .xorReg _ _ | .addReg _ _
  | .sub _ _ | .shr _ _ | .subn _ _ | .shl _ _ | .nop8 _ _ _ | .ldI _ | .rnd _ _ | .drw _ _ _ | .nopE _ _ | .ldVxDT _
  | .ldVxK _ | .ldDTVx _ | .ldSTVx _ | .addI _ | .ldF _ | .ldB _ | .storeRegs _ | .loadRegs _ | .nopF _ _ => false

/-- The condition of a skip instruction, nothing for any other instruction (R84, R110 to R112, R140, R160, R161, R163). -/
def Instr.skipCondition (i : Instr) (s : State) : Option Bool :=
  match i with
  | .seImm x kk => some (decide (s.reg x = kk))
  | .sneImm x kk => some (decide (s.reg x ≠ kk))
  | .seReg x y => some (decide (s.reg x = s.reg y))
  | .sneReg x y => some (decide (s.reg x ≠ s.reg y))
  | .skp x => some (s.keys[(s.reg x).toNat % 16])
  | .sknp x => some (!s.keys[(s.reg x).toNat % 16])
  | .cls | .ret | .sys _ | .jp _ | .call _ | .ldImm _ _ | .addImm _ _ | .ldReg _ _ | .orReg _ _ | .andReg _ _ | .xorReg _ _
  | .addReg _ _ | .sub _ _ | .shr _ _ | .subn _ _ | .shl _ _ | .nop8 _ _ _ | .ldI _ | .jpV0 _ | .rnd _ _ | .drw _ _ _
  | .nopE _ _ | .ldVxDT _ | .ldVxK _ | .ldDTVx _ | .ldSTVx _ | .addI _ | .ldF _ | .ldB _ | .storeRegs _ | .loadRegs _
  | .nopF _ _ => none

/-- The number of an instruction's row (R68). -/
def Instr.rowNumber : Instr → Nat
  | .cls => 1
  | .ret => 2
  | .sys _ => 3
  | .jp _ => 4
  | .call _ => 5
  | .seImm _ _ => 6
  | .sneImm _ _ => 7
  | .seReg _ _ => 8
  | .ldImm _ _ => 9
  | .addImm _ _ => 10
  | .ldReg _ _ => 11
  | .orReg _ _ => 12
  | .andReg _ _ => 13
  | .xorReg _ _ => 14
  | .addReg _ _ => 15
  | .sub _ _ => 16
  | .shr _ _ => 17
  | .subn _ _ => 18
  | .shl _ _ => 19
  | .nop8 _ _ _ => 20
  | .sneReg _ _ => 21
  | .ldI _ => 22
  | .jpV0 _ => 23
  | .rnd _ _ => 24
  | .drw _ _ _ => 25
  | .skp _ => 26
  | .sknp _ => 27
  | .nopE _ _ => 28
  | .ldVxDT _ => 29
  | .ldVxK _ => 30
  | .ldDTVx _ => 31
  | .ldSTVx _ => 32
  | .addI _ => 33
  | .ldF _ => 34
  | .ldB _ => 35
  | .storeRegs _ => 36
  | .loadRegs _ => 37
  | .nopF _ _ => 38

end Sys2Proof
end

