-- ==== Sys2Proof/Certificates/Slice0/Obligations.lean ====
section
/-! DEFINITION. The statements for the provers, each a definition of type Prop. They come from the numbered rules of the spec;
where a clause rests on a decision of the spec (D<n>) or on a choice of this model (log entry <n>) the docstring says so.
A conclusion `exec i s = .next t` with `t` written out is at once the result, the frame and the completion: every field that
`{ s with … }` does not name is unchanged, every byte of memory included. -/

open Sys2Proof Sys2Proof.Machine

/-! ### Encoding (30_encoding.md) -/

/-- R61: the fields of a word are its bits, the same in terms of its two bytes, and every word decodes without an error. -/
def Obligations.WordFieldsAreTheBitsOfTheWord : Prop :=
  ∀ w : Word,
    fieldOp w = (w.extractLsb' 12 4).toNat ∧ (fieldX w).val = (w.extractLsb' 8 4).toNat ∧
      (fieldY w).val = (w.extractLsb' 4 4).toNat ∧ fieldN w = w.extractLsb' 0 4 ∧ fieldKk w = w.extractLsb' 0 8 ∧
      fieldNnn w = w.extractLsb' 0 12 ∧ fieldOp w = (highByte w).toNat / 16 ∧
      (fieldX w).val = (highByte w).toNat % 16 ∧ (fieldY w).val = (lowByte w).toNat / 16 ∧
      (fieldN w).toNat = (lowByte w).toNat % 16 ∧ fieldKk w = lowByte w ∧
      ∀ rest, decode (highByte w :: lowByte w :: rest) = .instr (decodeWord w) rest

/-- R72: decoding inverts encoding, for every well-formed instruction with every operand; bytes that follow are left over. -/
def Obligations.DecodeInvertsEncode : Prop :=
  ∀ (i : Instr) (rest : List Byte), i.wellFormed = true → decode (encodeBytes i ++ rest) = .instr i rest

/-- R65, R66, R72: encoding inverts decoding except for the ignored low nibble of families 5 and 9 (the spec's decision D16),
which becomes 0, the canonical encoding; and a word decodes to a well-formed instruction. -/
def Obligations.EncodeInvertsDecodeButIgnoredNibble : Prop :=
  ∀ w : Word,
    encode (decodeWord w) = (if fieldOp w = 5 ∨ fieldOp w = 9 then w &&& 0xFFF0#16 else w) ∧
      (decodeWord w).wellFormed = true

/-- R68: the decoder selects the first row of the opcode map whose masked bits match, for each of the 65536 words. -/
def Obligations.DecoderFollowsTheOpcodeMap : Prop := ∀ w : Word, firstRow w = some (decodeWord w).rowNumber

/-- One word of each family, written out bit by bit from the encodings of R68. -/
def Obligations.SampleWordsDecodeAsTheMapSays : Prop :=
  decodeWord 0b0000000011100000#16 = .cls ∧ decodeWord 0b0000000100100011#16 = .sys 0x123#12 ∧
    decodeWord 0b0001001000110100#16 = .jp 0x234#12 ∧ decodeWord 0b0010001100000000#16 = .call 0x300#12 ∧
    decodeWord 0b0011001000110011#16 = .seImm 2 0x33#8 ∧ decodeWord 0b0100001000110100#16 = .sneImm 2 0x34#8 ∧
    decodeWord 0b0101000100101111#16 = .seReg 1 2 ∧ decodeWord 0b0110001101111111#16 = .ldImm 3 0x7F#8 ∧
    decodeWord 0b0111000000100000#16 = .addImm 0 0x20#8 ∧ decodeWord 0b1000000100100101#16 = .sub 1 2 ∧
    decodeWord 0b1001000100100000#16 = .sneReg 1 2 ∧ decodeWord 0b1010001011110000#16 = .ldI 0x2F0#12 ∧
    decodeWord 0b1011001100000000#16 = .jpV0 0x300#12 ∧ decodeWord 0b1100001100001111#16 = .rnd 3 0x0F#8 ∧
    decodeWord 0b1101000000010010#16 = .drw 0 1 2#4 ∧ decodeWord 0b1110010010011110#16 = .skp 4 ∧
    decodeWord 0b1111001001100101#16 = .loadRegs 2

/-! ### The step (40_step_cycle.md) -/

/-- R80: the Step operation: nothing outside `RUNNING`; else the fetch, which may raise `MemoryFault`, then the instruction
the fetched word selects. -/
def Obligations.StepGatesFetchesAndExecutes : Prop :=
  ∀ s : State,
    (s.phase ≠ .running → step s = .next s) ∧
      (s.phase = .running → s.fetchWord = none → step s = .next { s with fault := .memoryFault, phase := .halted }) ∧
      ∀ w, s.phase = .running → s.fetchWord = some w → step s = exec (decodeWord w) s

/-- R81, R82: when the bytes at the pc decode to an instruction, the step of a running machine is that instruction's meaning
at that state; the meaning itself writes the pc. -/
def Obligations.StepRunsTheDecodedInstruction : Prop :=
  ∀ (s : State) (hi lo : Byte) (i : Instr),
    s.phase = .running → s.mem.read s.pc.toNat = some hi → s.mem.read (s.pc.toNat + 1) = some lo →
      decode [hi, lo] = .instr i [] → i.wellFormed = true ∧ step s = exec i s

/-- R42: the fetched word is big-endian: `mem[pc]` is its high byte and `mem[pc+1]` its low byte. -/
def Obligations.FetchIsBigEndian : Prop :=
  ∀ s : State, s.pc.toNat + 1 ≤ 0xFFE →
    ∃ w, s.fetchWord = some w ∧ w.toNat = (s.mem.byteAt s.pc.toNat).toNat * 256 + (s.mem.byteAt (s.pc.toNat + 1)).toNat ∧
      highByte w = s.mem.byteAt s.pc.toNat ∧ lowByte w = s.mem.byteAt (s.pc.toNat + 1)

/-- R66, R202: no step ends outside the machine: no word traps, and a fatal fault is a next state. -/
def Obligations.StepAlwaysAnswersNext : Prop := ∀ s : State, ∃ t, step s = .next t

/-- R28: the step is the host's `Step(rnd)` with the next drawn byte, whatever byte that is (a free value, log entry 1). -/
def Obligations.StepIsStepWithTheDrawnByte : Prop := ∀ s : State, step s = stepWith (Config.randomByte s.draws) s

/-- R42, R231: a word placed at the pc is what the next step runs (log entry 4: a program comes from outside). -/
def Obligations.PlacedWordIsWhatTheStepRuns : Prop :=
  ∀ (s : State) (w : Word), s.mem.wf = true → s.pc.toNat + 1 ≤ 0xFFE →
    step (s.withFetchWord 16 w.toNat) = exec (decodeWord w) (s.withFetchWord 16 w.toNat)

/-! ### What each instruction does when its next pc is in range (41 to 47) -/

/-- R129, R179, and R102, R162: the four no-op classes change nothing but the pc, for every operand. -/
def Obligations.NoOpsOnlyAdvance : Prop :=
  ∀ (s : State) (nnn : Addr12) (x y : RegIdx) (n : Nibble) (kk : Byte), s.CanAdvance →
    exec (.sys nnn) s = .next { s with pc := s.pc + 2 } ∧ exec (.nop8 x y n) s = .next { s with pc := s.pc + 2 } ∧
      exec (.nopE x kk) s = .next { s with pc := s.pc + 2 } ∧ exec (.nopF x kk) s = .next { s with pc := s.pc + 2 }

/-- R100: CLS makes every pixel unlit and changes nothing else but the pc. -/
def Obligations.ClearScreenUnlightsEveryPixel : Prop :=
  ∀ s : State, s.CanAdvance →
    ∃ t, exec .cls s = .next t ∧ (∀ c r, t.pixel c r = false) ∧ t = { s with fb := t.fb, pc := s.pc + 2 }

/-- R103, R142: JP sets the pc to `nnn` and JP V0 to `V[0] + nnn`, not wrapped; a target out of range halts with
`ControlFlowFault`, and nothing else changes. -/
def Obligations.JumpsSetPcOrFault : Prop :=
  ∀ (s : State) (nnn : Addr12),
    (InRange nnn.toNat → exec (.jp nnn) s = .next { s with pc := nnn.setWidth 16 }) ∧
      (nnn.toNat < 0x200 ∨ nnn.toNat = 0xFFF →
        exec (.jp nnn) s = .next { s with fault := .controlFlowFault, phase := .halted }) ∧
      (InRange ((s.reg 0).toNat + nnn.toNat) →
        exec (.jpV0 nnn) s = .next { s with pc := (s.reg 0).setWidth 16 + nnn.setWidth 16 }) ∧
      ((s.reg 0).toNat + nnn.toNat < 0x200 ∨ 0xFFF ≤ (s.reg 0).toNat + nnn.toNat →
        exec (.jpV0 nnn) s = .next { s with fault := .controlFlowFault, phase := .halted })

/-- R104 (the spec's decision D6): CALL with room and a legal target pushes its own address and jumps. -/
def Obligations.CallPushesItsOwnAddress : Prop :=
  ∀ (s : State) (nnn : Addr12) (room : s.sp.val < 16), InRange nnn.toNat →
    exec (.call nnn) s =
      .next { s with stack := s.stack.set s.sp.val s.pc room, sp := ⟨s.sp.val + 1, by omega⟩, pc := nnn.setWidth 16 }

/-- R101 (the spec's decision D6): RET pops the most recent value and resumes two bytes after it. -/
def Obligations.ReturnResumesAfterTheSavedAddress : Prop :=
  ∀ (s : State) (some_saved : 0 < s.sp.val), InRange ((s.stack[s.sp.val - 1]'(by omega)).toNat + 2) →
    exec .ret s = .next { s with sp := ⟨s.sp.val - 1, by omega⟩, pc := s.stack[s.sp.val - 1]'(by omega) + 2 }

/-- R101, R104 (the spec's decisions D6 and D7): a call on a full stack is `StackOverflow` and a return on an empty one
`StackUnderflow`, with nothing changed, whatever the target; an illegal target is `ControlFlowFault` after the push or the pop,
and the pc stays. -/
def Obligations.CallAndReturnFaults : Prop :=
  ∀ (s : State) (nnn : Addr12),
    (s.sp.val = 16 → exec (.call nnn) s = .next { s with fault := .stackOverflow, phase := .halted }) ∧
      (∀ room : s.sp.val < 16, ¬InRange nnn.toNat →
        exec (.call nnn) s =
          .next { s with
            stack := s.stack.set s.sp.val s.pc room, sp := ⟨s.sp.val + 1, by omega⟩, fault := .controlFlowFault,
            phase := .halted }) ∧
      (s.sp.val = 0 → exec .ret s = .next { s with fault := .stackUnderflow, phase := .halted }) ∧
      ∀ some_saved : 0 < s.sp.val, ¬InRange ((s.stack[s.sp.val - 1]'(by omega)).toNat + 2) →
        exec .ret s =
          .next { s with sp := ⟨s.sp.val - 1, by omega⟩, fault := .controlFlowFault, phase := .halted }

/-- R101, R104: a RET that finds the stack as a CALL left it resumes at the CALL's address plus 2, and the stack is as deep as
before the CALL, whatever else has changed between them. -/
def Obligations.ReturnAfterCallResumesAfterTheCall : Prop :=
  ∀ (s t u : State) (nnn : Addr12), s.sp.val < 16 → InRange nnn.toNat → s.CanAdvance → exec (.call nnn) s = .next t →
    u.stack = t.stack → u.sp = t.sp → exec .ret u = .next { u with sp := s.sp, pc := s.pc + 2 }

/-- R84: a skip whose condition holds goes to `pc + 4`, one whose condition does not to `pc + 2`, and nothing else changes;
the skips are `3xkk`, `4xkk`, `5xy-`, `9xy-`, `Ex9E`, `ExA1`. Which key a register names is the spec's decision D14. -/
def Obligations.SkipsGoFourOrTwoBytesOn : Prop :=
  ∀ (s : State) (x y : RegIdx) (kk : Byte),
    (∀ i ∈ [Instr.seImm x kk, .sneImm x kk, .seReg x y, .sneReg x y, .skp x, .sknp x],
        (i.skipCondition s = some true → InRange (s.pc.toNat + 4) → exec i s = .next { s with pc := s.pc + 4 }) ∧
          (i.skipCondition s = some false → InRange (s.pc.toNat + 2) → exec i s = .next { s with pc := s.pc + 2 })) ∧
      ∀ i : Instr, i.skipCondition s ≠ none →
        ∃ x y kk, i ∈ [Instr.seImm x kk, .sneImm x kk, .seReg x y, .sneReg x y, .skp x, .sknp x]

/-- R110, R85 (the spec's decision D5): a skip whose chosen advance leaves the range halts with `ControlFlowFault` and changes
nothing else. -/
def Obligations.SkipsOutOfRangeFault : Prop :=
  ∀ (s : State) (i : Instr) (taken : Bool), i.skipCondition s = some taken →
    ¬InRange (s.pc.toNat + if taken then 4 else 2) →
      exec i s = .next { s with fault := .controlFlowFault, phase := .halted }

/-- R120, R170, and R113: the loads of a register write it and change nothing else but the pc, `x = 15` and `x = y`
included. -/
def Obligations.LoadsWriteTheirRegister : Prop :=
  ∀ (s : State) (x y : RegIdx) (kk : Byte), s.CanAdvance →
    exec (.ldImm x kk) s = .next { s with V := s.V.set x.val kk, pc := s.pc + 2 } ∧
      exec (.ldReg x y) s = .next { s with V := s.V.set x.val (s.reg y), pc := s.pc + 2 } ∧
      exec (.ldVxDT x) s = .next { s with V := s.V.set x.val s.dt, pc := s.pc + 2 }

/-- R114, R121 to R123 (for `8xy1` to `8xy3` the spec's decision D19): add immediate wraps at 8 bits, and neither it nor the
logic operations write `VF` unless `x = 15` names it. -/
def Obligations.AddImmediateAndLogicWriteNoFlag : Prop :=
  ∀ (s : State) (x y : RegIdx) (kk : Byte), s.CanAdvance →
    exec (.addImm x kk) s = .next { s with V := s.V.set x.val (s.reg x + kk), pc := s.pc + 2 } ∧
      exec (.orReg x y) s = .next { s with V := s.V.set x.val (s.reg x ||| s.reg y), pc := s.pc + 2 } ∧
      exec (.andReg x y) s = .next { s with V := s.V.set x.val (s.reg x &&& s.reg y), pc := s.pc + 2 } ∧
      exec (.xorReg x y) s = .next { s with V := s.V.set x.val (s.reg x ^^^ s.reg y), pc := s.pc + 2 }

/-- R124, R125, R127: the sum and both differences modulo 256 from the values before the instruction, then `VF` the carry or
the strict no-borrow flag, written last, so that with `x = 15` the flag is what `VF` holds. -/
def Obligations.AddAndSubtractWriteResultThenFlag : Prop :=
  ∀ (s : State) (x y : RegIdx), s.CanAdvance →
    exec (.addReg x y) s =
        .next { s with
          V := (s.V.set x.val (s.reg x + s.reg y)).set 15 (if (s.reg x).toNat + (s.reg y).toNat > 255 then 1 else 0)
          pc := s.pc + 2 } ∧
      exec (.sub x y) s =
        .next { s with
          V := (s.V.set x.val (s.reg x - s.reg y)).set 15 (if (s.reg x).toNat > (s.reg y).toNat then 1 else 0)
          pc := s.pc + 2 } ∧
      exec (.subn x y) s =
        .next { s with
          V := (s.V.set x.val (s.reg y - s.reg x)).set 15 (if (s.reg y).toNat > (s.reg x).toNat then 1 else 0)
          pc := s.pc + 2 }

/-- R126, R128 (the spec's decision D15): the shifts work on `V[x]` alone, whatever `y`, and `VF` is the bit shifted out,
written last. -/
def Obligations.ShiftsWriteResultThenBitShiftedOut : Prop :=
  ∀ (s : State) (x y : RegIdx), s.CanAdvance →
    exec (.shr x y) s =
        .next { s with
          V := (s.V.set x.val (s.reg x >>> 1)).set 15 (if (s.reg x).getLsbD 0 then 1 else 0), pc := s.pc + 2 } ∧
      exec (.shl x y) s =
        .next { s with
          V := (s.V.set x.val (s.reg x <<< 1)).set 15 (if (s.reg x).getLsbD 7 then 1 else 0), pc := s.pc + 2 }

/-- R174, R175, and R141: the writes of `I`: the 12-bit address, the 16-bit wrapping sum, five times the low nibble. -/
def Obligations.IndexRegisterWrites : Prop :=
  ∀ (s : State) (x : RegIdx) (nnn : Addr12), s.CanAdvance →
    exec (.ldI nnn) s = .next { s with I := nnn.setWidth 16, pc := s.pc + 2 } ∧
      exec (.addI x) s = .next { s with I := s.I + (s.reg x).setWidth 16, pc := s.pc + 2 } ∧
      exec (.ldF x) s = .next { s with I := BitVec.ofNat 16 ((s.reg x).toNat % 16 * 5), pc := s.pc + 2 }

/-- R172, R173: the timers are written from `V[x]`, and no hidden timer state changes. -/
def Obligations.TimerWrites : Prop :=
  ∀ (s : State) (x : RegIdx), s.CanAdvance →
    exec (.ldDTVx x) s = .next { s with dt := s.reg x, pc := s.pc + 2 } ∧
      exec (.ldSTVx x) s = .next { s with st := s.reg x, pc := s.pc + 2 }

/-- R143 (the spec's decision D17; log entry 1): RND writes the random byte masked by `kk`, for the host's byte `rnd` and for
the free value of the draw, whatever they are. -/
def Obligations.RandomWritesTheMaskedByte : Prop :=
  ∀ (s : State) (x : RegIdx) (kk rnd : Byte), s.CanAdvance →
    execWith rnd (.rnd x kk) s =
        .next { s with V := s.V.set x.val (rnd &&& kk), draws := s.draws + 1, pc := s.pc + 2 } ∧
      exec (.rnd x kk) s =
        .next { s with
          V := s.V.set x.val (Config.randomByte s.draws &&& kk), draws := s.draws + 1, pc := s.pc + 2 }

/-- R171 (the spec's decision D13): the key wait is entered with its register noted and the pc advanced; no register is
written. -/
def Obligations.KeyWaitIsEntered : Prop :=
  ∀ (s : State) (x : RegIdx), s.CanAdvance →
    exec (.ldVxK x) s = .next { s with awaitX := x, phase := .awaitKey, pc := s.pc + 2 }

/-- R151, R152, R150: DRW XORs the sprite bits onto the pixels they map to, both coordinates wrapping, and `VF` is 1 exactly
when some set bit found its pixel lit. That `n = 0` reads nothing for any `I`, and that a sprite past `0xFFE` faults instead, is the
spec's decision D10 (log entry 12). -/
def Obligations.DrawXorsTheSpriteAndReportsCollision : Prop :=
  ∀ (s : State) (x y : RegIdx) (n : Nibble), s.CanAdvance → (n = 0 ∨ s.I.toNat + n.toNat - 1 ≤ 0xFFE) →
    ∃ t, exec (.drw x y n) s = .next t ∧
      (∀ c r, t.pixel c r =
        (s.pixel c r ^^ spriteBit s.mem s.I.toNat n.toNat (s.reg x).toNat (s.reg y).toNat c r)) ∧
      t = { s with
        fb := t.fb
        V := s.V.set 15
          (if ∃ c r, (spriteBit s.mem s.I.toNat n.toNat (s.reg x).toNat (s.reg y).toNat c r && s.pixel c r) = true
            then 1 else 0)
        pc := s.pc + 2 }

/-- R150: drawing the same sprite twice at the same coordinates restores every pixel, and the second draw reports a collision
exactly when the first lit some pixel. Between the two draws anything else may have changed. -/
def Obligations.DrawingTwiceRestoresThePixels : Prop :=
  ∀ (s t u : State) (x y x' y' : RegIdx) (n : Nibble), s.CanAdvance → u.CanAdvance →
    (n = 0 ∨ s.I.toNat + n.toNat - 1 ≤ 0xFFE) → exec (.drw x y n) s = .next t →
      u.fb = t.fb → u.mem = s.mem → u.I = s.I → u.reg x' = s.reg x → u.reg y' = s.reg y →
        ∃ v, exec (.drw x' y' n) u = .next v ∧ v.fb = s.fb ∧
          v.reg 15 = if ∃ c r, s.pixel c r = false ∧ t.pixel c r = true then 1 else 0

/-- R176: the three decimal digits of `V[x]` at `I`, `I + 1`, `I + 2`; every other byte and everything but the pc as before.
Memory in canonical form is part of the invariant. -/
def Obligations.BcdStoresThreeDigits : Prop :=
  ∀ (s : State) (x : RegIdx), s.CanAdvance → s.mem.wf = true → 0x200 ≤ s.I.toNat → s.I.toNat + 2 ≤ 0xFFE →
    ∃ t, exec (.ldB x) s = .next t ∧ t = { s with mem := t.mem, pc := s.pc + 2 } ∧
      (t.mem.byteAt s.I.toNat).toNat = (s.reg x).toNat / 100 ∧
      (t.mem.byteAt (s.I.toNat + 1)).toNat = (s.reg x).toNat / 10 % 10 ∧
      (t.mem.byteAt (s.I.toNat + 2)).toNat = (s.reg x).toNat % 10 ∧
      ∀ a, a < s.I.toNat ∨ s.I.toNat + 3 ≤ a → t.mem.byteAt a = s.mem.byteAt a

/-- R177 (for `I` unchanged the spec's decision D19): `V[k]` goes to `I + k` for every `k` up to `x`; every other byte and
everything but the pc as before. -/
def Obligations.StoreRegistersWritesTheBlock : Prop :=
  ∀ (s : State) (x : RegIdx), s.CanAdvance → s.mem.wf = true → 0x200 ≤ s.I.toNat → s.I.toNat + x.val ≤ 0xFFE →
    ∃ t, exec (.storeRegs x) s = .next t ∧ t = { s with mem := t.mem, pc := s.pc + 2 } ∧
      (∀ k : RegIdx, k ≤ x → t.mem.byteAt (s.I.toNat + k.val) = s.reg k) ∧
      ∀ a, a < s.I.toNat ∨ s.I.toNat + x.val + 1 ≤ a → t.mem.byteAt a = s.mem.byteAt a

/-- R178 (for `I` unchanged the spec's decision D19): `V[k]` comes from `I + k` for every `k` up to `x`, `VF` like any other;
registers above `x` and everything but the pc as before. The font region is readable. -/
def Obligations.LoadRegistersReadsTheBlock : Prop :=
  ∀ (s : State) (x : RegIdx), s.CanAdvance → s.I.toNat + x.val ≤ 0xFFE →
    ∃ t, exec (.loadRegs x) s = .next t ∧ t = { s with V := t.V, pc := s.pc + 2 } ∧
      ∀ k : RegIdx, t.reg k = if k ≤ x then s.mem.byteAt (s.I.toNat + k.val) else s.reg k

/-- R178: the block load is the inverse of the block store: with memory and `I` as the store left them, it gives every
register up to `x` the value it had when stored. -/
def Obligations.LoadRegistersInvertsStoreRegisters : Prop :=
  ∀ (s t u : State) (x : RegIdx), s.CanAdvance → u.CanAdvance → s.mem.wf = true → 0x200 ≤ s.I.toNat →
    s.I.toNat + x.val ≤ 0xFFE → exec (.storeRegs x) s = .next t → u.mem = t.mem → u.I = s.I →
      ∃ v, exec (.loadRegs x) u = .next v ∧ ∀ k : RegIdx, k ≤ x → v.reg k = s.reg k

/-- R52, R43: two registers stored over the next instruction are what the next fetch reads, the lower-numbered one as the
high byte. -/
def Obligations.StoredRegistersAreFetchedNext : Prop :=
  ∀ (s t u : State) (x k : RegIdx) (next_reg : k.val + 1 ≤ x.val), s.mem.wf = true → 0x200 ≤ s.I.toNat →
    s.I.toNat + x.val ≤ 0xFFE → exec (.storeRegs x) s = .next t → u.mem = t.mem → u.pc.toNat = s.I.toNat + k.val →
      u.fetchWord = some (wordOfBytes (s.reg k) (s.reg ⟨k.val + 1, by omega⟩))

/-! ### Faults (60_exceptions.md) -/

/-- R48, R81, R201 (the spec's decision D10): a sprite, a store or a load whose bytes do not all lie where it may reach halts
with `MemoryFault`, and nothing else changes; so does a step at `0xFFE`, whose second byte does not exist. -/
def Obligations.MemoryAccessOutOfRangeFaults : Prop :=
  ∀ (s : State) (x y : RegIdx) (n : Nibble),
    (0 < n.toNat → 0xFFE < s.I.toNat + n.toNat - 1 →
        exec (.drw x y n) s = .next { s with fault := .memoryFault, phase := .halted }) ∧
      (s.I.toNat < 0x200 ∨ 0xFFE < s.I.toNat + 2 →
        exec (.ldB x) s = .next { s with fault := .memoryFault, phase := .halted }) ∧
      (s.I.toNat < 0x200 ∨ 0xFFE < s.I.toNat + x.val →
        exec (.storeRegs x) s = .next { s with fault := .memoryFault, phase := .halted }) ∧
      (0xFFE < s.I.toNat + x.val →
        exec (.loadRegs x) s = .next { s with fault := .memoryFault, phase := .halted }) ∧
      (s.phase = .running → s.pc = 0xFFE#16 → step s = .next { s with fault := .memoryFault, phase := .halted })

/-- R85 (the spec's decision D5): an instruction that does not redirect control and whose sequential advance leaves the range
has every effect it would have at another address `p`, keeps its own pc, and halts with `ControlFlowFault`; unless it already
faulted by itself (its pc at `p` did not move). -/
def Obligations.AdvanceOutOfRangeFaultsAfterTheEffects : Prop :=
  ∀ (s t : State) (i : Instr) (p : Word), i.redirects = false → ¬s.CanAdvance → InRange (p.toNat + 2) →
    exec i { s with pc := p } = .next t →
      exec i s =
        .next (if t.pc = p then { t with pc := s.pc }
          else { t with pc := s.pc, fault := .controlFlowFault, phase := .halted })

/-- R86, R202: a step of a running machine that ends halted has recorded a fault, and the pc holds the address of the
instruction that faulted. -/
def Obligations.HaltKeepsTheFaultingPc : Prop :=
  ∀ s t : State, s.phase = .running → step s = .next t → t.phase = .halted → t.pc = s.pc ∧ t.fault ≠ .none

/-- R204: a halted machine stays as it halted under any operations of the host but `Reset`: run state, fault, pc, registers,
stack, memory and framebuffer. -/
def Obligations.HaltedUntilReset : Prop :=
  ∀ (ops : List HostOp) (s t : State), s.phase = .halted → HostOp.reset ∉ ops → performAll ops s = .next t →
    t = { s with keys := t.keys, dt := t.dt, st := t.st, tValid := t.tValid, tLast := t.tLast, tRem3 := t.tRem3 }

/-! ### What may change what (10_state.md) -/

/-- R10, R11: an instruction changes no general register but its destinations: its `x`, for `Fx65` those up to `x`, and `VF`
for the six flag writers. -/
def Obligations.OnlyDestinationRegistersChange : Prop :=
  ∀ (s t : State) (i : Instr) (r : RegIdx), exec i s = .next t → i.writesReg r = false → t.reg r = s.reg r

/-- R11: the six flag writers leave 0 or 1 in `VF`, whatever `x` is, unless they raise `MemoryFault` (the spec's decision D10)
and change nothing. -/
def Obligations.FlagWritersLeaveZeroOrOne : Prop :=
  ∀ (s t : State) (i : Instr), i.writesFlag = true → exec i s = .next t →
    t.reg 15 = 0 ∨ t.reg 15 = 1 ∨ t = { s with fault := .memoryFault, phase := .halted }

/-- R41, R47: an instruction changes no byte of memory but those it stores, from `I` on, and none when it stores nothing. -/
def Obligations.OnlyStoredBytesChange : Prop :=
  ∀ (s t : State) (i : Instr), s.mem.wf = true → exec i s = .next t →
    (i.storedBytes = 0 → t.mem = s.mem) ∧
      ∀ a, a < s.I.toNat ∨ s.I.toNat + i.storedBytes ≤ a → t.mem.byteAt a = s.mem.byteAt a

/-- R15: only CALL and RET touch the call stack, and RET leaves its slots as they are. -/
def Obligations.OnlyCallAndReturnTouchTheStack : Prop :=
  ∀ (s t : State) (i : Instr), exec i s = .next t →
    ((∀ nnn, i ≠ .call nnn) → t.stack = s.stack) ∧ ((∀ nnn, i ≠ .call nnn) → i ≠ .ret → t.sp = s.sp)

/-- R12, R18, R20, R22, R28: only the named instructions write `I`, the framebuffer, each timer, the key wait's register and
the count of draws, and none writes the keyboard. -/
def Obligations.OnlyNamedInstructionsWriteTheRest : Prop :=
  ∀ (s t : State) (i : Instr), exec i s = .next t →
    ((∀ nnn, i ≠ .ldI nnn) → (∀ x, i ≠ .addI x) → (∀ x, i ≠ .ldF x) → t.I = s.I) ∧
      (i ≠ .cls → (∀ x y n, i ≠ .drw x y n) → t.fb = s.fb) ∧ ((∀ x, i ≠ .ldDTVx x) → t.dt = s.dt) ∧
      ((∀ x, i ≠ .ldSTVx x) → t.st = s.st) ∧ ((∀ x, i ≠ .ldVxK x) → t.awaitX = s.awaitX) ∧
      ((∀ x kk, i ≠ .rnd x kk) → t.draws = s.draws) ∧ t.keys = s.keys

/-- R88: `Step` does not touch the timers except by `Fx15` and `Fx18`, nor the keys, nor the hidden timer state. -/
def Obligations.StepLeavesTimeAndKeysAlone : Prop :=
  ∀ s t : State, step s = .next t →
    (t.dt ≠ s.dt → ∃ w x, s.fetchWord = some w ∧ decodeWord w = .ldDTVx x) ∧
      (t.st ≠ s.st → ∃ w x, s.fetchWord = some w ∧ decodeWord w = .ldSTVx x) ∧
      t.keys = s.keys ∧ t.tValid = s.tValid ∧ t.tLast = s.tLast ∧ t.tRem3 = s.tRem3

/-- R30: who writes what: what each of the host's operations leaves alone. `Step` leaves the keys, the hidden timer state and
every byte below `0x200`; the others write only the fields named. -/
def Obligations.EachOperationWritesOnlyItsOwnState : Prop :=
  ∀ s t : State,
    (∀ rnd, s.mem.wf = true → perform (.step rnd) s = .next t →
        t.keys = s.keys ∧ t.tValid = s.tValid ∧ t.tLast = s.tLast ∧ t.tRem3 = s.tRem3 ∧
          ∀ a, a < 0x200 → t.mem.byteAt a = s.mem.byteAt a) ∧
      (∀ n, perform (.advanceTimers n) s = .next t →
        t = { s with dt := t.dt, st := t.st, tValid := t.tValid, tLast := t.tLast, tRem3 := t.tRem3 }) ∧
      (∀ k b, perform (.keyWrite k b) s = .next t →
        t = { s with keys := t.keys, V := t.V, phase := t.phase } ∧
          (t.phase = s.phase → t.V = s.V) ∧ ∀ r, r ≠ s.awaitX → t.reg r = s.reg r) ∧
      ∀ image, s.mem.wf = true → perform (.load image) s = .next t →
        t = { s with mem := t.mem, phase := t.phase, fault := t.fault } ∧
          ∀ a, a < 0x200 → t.mem.byteAt a = s.mem.byteAt a

/-- R21, R217, R232: the transitions of the run state are exactly the spec's six. That a failed load halts with `LoadFault` is
the spec's decision D11 (log entry 14); that a press is a write of 1 to a key not held is its decision D13 (log entry 16). -/
def Obligations.RunStateTransitions : Prop :=
  ∀ (op : HostOp) (s t : State), perform op s = .next t →
    t.phase = s.phase ∨ (op = .reset ∧ t.phase = .fresh) ∨
      (∃ image, op = .load image ∧ s.phase = .fresh ∧
        (image.length ≤ 3583 ∧ t.phase = .running ∨ 3583 < image.length ∧ t.phase = .halted ∧ t.fault = .loadFault)) ∨
      (∃ rnd w x, op = .step rnd ∧ s.phase = .running ∧ s.fetchWord = some w ∧ decodeWord w = .ldVxK x ∧
        t.phase = .awaitKey ∧ t.awaitX = x) ∨
      (∃ rnd, op = .step rnd ∧ s.phase = .running ∧ t.phase = .halted ∧ t.fault ≠ .none) ∨
      ∃ k, op = .keyWrite k true ∧ s.keys[k.val] = false ∧ s.phase = .awaitKey ∧ t.phase = .running

/-! ### Invariants -/

/-- R89, R31: the invariant holds at reset. -/
def Obligations.ResetMeetsTheInvariant : Prop := State.reset.Inv

/-- R89: every step keeps the invariant, from every state that meets it. -/
def Obligations.StepKeepsTheInvariant : Prop := ∀ s t : State, s.Inv → step s = .next t → t.Inv

/-- R89: every operation of the host keeps the invariant, from every state that meets it. -/
def Obligations.EveryOperationKeepsTheInvariant : Prop :=
  ∀ (op : HostOp) (s t : State), s.Inv → perform op s = .next t → t.Inv

/-- R89, R239: every state that any sequence of the host's operations reaches meets the invariant. -/
def Obligations.ReachableStatesMeetTheInvariant : Prop := ∀ s : State, Reachable s → s.Inv

/-- R204, R242: if a run is safe and its last part holds no `Reset`, the part before it was safe. -/
def Obligations.SafeRunsHaveSafeBeginnings : Prop :=
  ∀ before after : List HostOp, HostOp.reset ∉ after → SafeRun (before ++ after) → SafeRun before

/-- The canonical form of memory is unique: memories that read alike everywhere are equal data (the model's own form). -/
def Obligations.CanonicalMemoryIsUnique : Prop :=
  ∀ m m' : Memory, m.wf = true → m'.wf = true → (∀ a, m.byteAt a = m'.byteAt a) → m = m'

/-! ### The host's operations (60_exceptions.md sections 4 to 6, 70_reset_and_hazards.md) -/

/-- R230, R31: `Reset` from any state gives the reset state: nothing loaded, nothing held, every pixel unlit, the pc at
`0x200`, the font and zeros in memory. The font bytes and the zeros are the spec's decisions D2 and D3 (log entries 2 and 3);
the count of draws is the model's own and goes on (log entry 1). -/
def Obligations.ResetGivesTheResetState : Prop :=
  ∀ s : State, ∃ t, perform .reset s = .next t ∧ t.pc = 0x200#16 ∧ t.sp.val = 0 ∧ t.phase = .fresh ∧ t.run = false ∧
    t.fault = .none ∧ (∀ c r, t.pixel c r = false) ∧ (∀ x, t.reg x = 0) ∧ t.I = 0 ∧ t.dt = 0 ∧ t.st = 0 ∧
    (∀ k : KeyId, t.keys[k.val] = false) ∧ (∀ k : Fin 16, t.stack[k.val] = 0) ∧ t.awaitX = 0 ∧ t.tValid = false ∧
    t.tLast = 0 ∧ t.tRem3 = 0 ∧ (∀ d : Fin 80, t.mem.byteAt d.val = Config.font[d.val]'(by simp [Config.font])) ∧
    ∀ a, 80 ≤ a → a ≤ 0xFFE → t.mem.byteAt a = 0

/-- R231: a fresh machine loads an image of at most 3583 bytes at `0x200`, runs, and nothing else changes. -/
def Obligations.LoadCopiesTheImageAndRuns : Prop :=
  ∀ (s : State) (image : List Byte), s.phase = .fresh → s.mem.wf = true → image.length ≤ 3583 →
    ∃ t, load image s = .next (.success, t) ∧ t = { s with mem := t.mem, phase := .running } ∧
      (∀ k : Fin image.length, t.mem.byteAt (0x200 + k.val) = image[k.val]) ∧
      ∀ a, a < 0x200 ∨ 0x200 + image.length ≤ a → t.mem.byteAt a = s.mem.byteAt a

/-- R232, R233, R214 (the spec's decisions D11 and D18): an image too large halts a fresh machine with `LoadFault` and nothing
copied; a load in any other phase and a decreasing timestamp have no meaning and are refused. -/
def Obligations.LoadFailuresAndRefusals : Prop :=
  ∀ (s : State) (image : List Byte) (n : Nat),
    (s.phase = .fresh → 3583 < image.length →
        load image s = .next (.failure, { s with fault := .loadFault, phase := .halted })) ∧
      (s.phase ≠ .fresh → load image s = .refused .loadOutsideFresh) ∧
      (s.tValid = true → n < s.tLast → advanceTimers n s = .refused .timestampDecreased)

/-- R211, R212: the first `AdvanceTimers` only records its timestamp; a later one converts whole 1/60-second frames, keeps the
exact remainder, and reduces each timer by the frames, clamped at zero; nothing else changes, in any phase. The exact interval
of 50/3 ms and the decay in every phase are the spec's decision D18. -/
def Obligations.AdvanceTimersBaselineAndDecay : Prop :=
  ∀ (s : State) (n : Nat),
    (s.tValid = false → advanceTimers n s = .next { s with tValid := true, tLast := n, tRem3 := 0 }) ∧
      (s.tValid = true → s.tLast ≤ n →
        ∃ t, advanceTimers n s = .next t ∧
          ∃ frames, 50 * frames + t.tRem3.val = s.tRem3.val + 3 * (n - s.tLast) ∧
            t.dt.toNat = s.dt.toNat - min s.dt.toNat frames ∧ t.st.toNat = s.st.toNat - min s.st.toNat frames ∧
            t = { s with dt := t.dt, st := t.st, tLast := n, tRem3 := t.tRem3 })

/-- R213: path independence: after a baseline, any calls with timestamps that do not decrease leave the state that the last
call alone leaves (the exact arithmetic is the spec's decision D18). -/
def Obligations.TimerDecayIsPathIndependent : Prop :=
  ∀ (s : State) (ns : List Nat) (n : Nat), s.tValid = true → (s.tLast :: (ns ++ [n])).Pairwise (· ≤ ·) →
    performAll (ns.map HostOp.advanceTimers ++ [.advanceTimers n]) s = advanceTimers n s

/-- R216, R217 (the spec's decisions D13 and D21): `KeyWrite` sets the flag; a press (0 to 1) during a key wait also writes
the key to the waiting register and resumes; a release, or a press of a key already held, does not. -/
def Obligations.KeyWriteSetsTheFlagAndMayEndAWait : Prop :=
  ∀ (s : State) (k : KeyId) (b : Bool),
    (b = true → s.keys[k.val] = false → s.phase = .awaitKey →
        keyWrite k b s =
          { s with keys := s.keys.set k.val true, V := s.V.set s.awaitX.val (BitVec.ofNat 8 k.val), phase := .running }) ∧
      (b = false ∨ s.keys[k.val] = true ∨ s.phase ≠ .awaitKey → keyWrite k b s = { s with keys := s.keys.set k.val b })

/-- R219, R220, R200 (the spec's decisions D9 and D12): the run-state read is true in `RUNNING` and `AWAIT_KEY` alone, and the
fault read gives each kind its own code. -/
def Obligations.RunAndFaultReads : Prop :=
  (∀ s : State, s.run = true ↔ s.phase = .running ∨ s.phase = .awaitKey) ∧
    (∀ s t : State, s.faultCode = t.faultCode ↔ s.fault = t.fault) ∧ ∀ s : State, s.faultCode ≤ 5
end

