-- ==== Sys2Proof/Laws/Memory.lean ====
section
/-! SUPPORT. The laws of memory: what a byte reads as after a write, and that every memory operation keeps the canonical
form (20_memory.md rules R46 to R48, R50). -/

namespace Sys2Proof.Machine

/-! ### The canonical form -/

theorem Memory.wfFrom_cons {lo k : Nat} {c : Byte} {rest : Memory} :
    Memory.wfFrom lo ((k, c) :: rest) = true ↔
      lo ≤ k ∧ k < Config.memSize ∧ c ≠ Config.resetByte k ∧ Memory.wfFrom (k + 1) rest = true := by
  simp [Memory.wfFrom, and_assoc]

theorem Memory.wfFrom_mono {m : Memory} {lo lo' : Nat} (h : Memory.wfFrom lo m = true) (hle : lo' ≤ lo) :
    Memory.wfFrom lo' m = true := by
  cases m with
  | nil => rfl
  | cons cell rest =>
    obtain ⟨k, c⟩ := cell
    rw [Memory.wfFrom_cons] at h ⊢
    exact ⟨hle.trans h.1, h.2⟩

theorem Memory.lookup_below {m : Memory} {lo a : Nat} (h : Memory.wfFrom lo m = true) (ha : a < lo) : m.lookup a = none := by
  induction m generalizing lo with
  | nil => rfl
  | cons cell rest ih =>
    obtain ⟨k, c⟩ := cell
    obtain ⟨hk, -, -, hrest⟩ := Memory.wfFrom_cons.mp h
    have hne : k ≠ a := by omega
    simpa [Memory.lookup, hne] using ih hrest (by omega)

theorem Memory.wfFrom_put {m : Memory} {lo a : Nat} {b : Byte} (h : Memory.wfFrom lo m = true) (hlo : lo ≤ a)
    (ha : a < Config.memSize) : Memory.wfFrom lo (m.put a b) = true := by
  induction m generalizing lo with
  | nil =>
    by_cases hb : b = Config.resetByte a
    · simp [Memory.put, hb, Memory.wfFrom]
    · simpa [Memory.put, hb, Memory.wfFrom] using ⟨hlo, ha⟩
  | cons cell rest ih =>
    obtain ⟨k, c⟩ := cell
    have h0 := h
    obtain ⟨hk, hk', hc, hrest⟩ := Memory.wfFrom_cons.mp h
    simp only [Memory.put]
    split
    · next hlt =>
      split
      · exact h0
      · next hb =>
        rw [Memory.wfFrom_cons]
        exact ⟨hlo, ha, hb, Memory.wfFrom_cons.mpr ⟨hlt, hk', hc, hrest⟩⟩
    · next hlt =>
      split
      · next heq =>
        subst heq
        split
        · exact Memory.wfFrom_mono hrest (by omega)
        · next hb => exact Memory.wfFrom_cons.mpr ⟨hlo, ha, hb, hrest⟩
      · next hne => exact Memory.wfFrom_cons.mpr ⟨hk, hk', hc, ih hrest (by omega)⟩

/-- A write keeps the canonical form. -/
theorem Memory.wf_put {m : Memory} {a : Nat} {b : Byte} (h : m.wf = true) (ha : a < Config.memSize) :
    (m.put a b).wf = true :=
  Memory.wfFrom_put h (Nat.zero_le a) ha

/-- A write of several bytes inside memory keeps the canonical form. -/
theorem Memory.wf_putBytes {m : Memory} {base : Nat} {bs : List Byte} (h : m.wf = true)
    (hend : base + bs.length ≤ Config.memSize) : (m.putBytes base bs).wf = true := by
  induction bs generalizing m base with
  | nil => exact h
  | cons b bs ih =>
    rw [List.length_cons] at hend
    exact ih (Memory.wf_put h (by omega)) (by omega)

/-! ### Reads after writes -/

theorem Memory.byteAt_put_from {m : Memory} {lo a : Nat} {b : Byte} (h : Memory.wfFrom lo m = true) (x : Nat) :
    (m.put a b).byteAt x = if x = a then b else m.byteAt x := by
  induction m generalizing lo with
  | nil =>
    rcases eq_or_ne x a with rfl | hx
    · by_cases hb : b = Config.resetByte x <;> simp [Memory.put, Memory.byteAt, Memory.lookup, hb]
    · by_cases hb : b = Config.resetByte a <;> simp [Memory.put, Memory.byteAt, Memory.lookup, hb, hx, hx.symm]
  | cons cell rest ih =>
    obtain ⟨k, c⟩ := cell
    have h0 := h
    obtain ⟨-, -, -, hrest⟩ := Memory.wfFrom_cons.mp h
    have hcons : ∀ (k : Nat) (c : Byte) (rest : Memory),
        Memory.byteAt ((k, c) :: rest) x = if k = x then c else Memory.byteAt rest x := by
      intro k c rest
      by_cases hkx : k = x <;> simp [Memory.byteAt, Memory.lookup, hkx]
    simp only [Memory.put]
    split
    · next hlt =>
      split
      · next hb =>
        by_cases hx : x = a
        · subst hx
          have hnone := Memory.lookup_below (a := x) (Memory.wfFrom_mono (lo' := k) (Memory.wfFrom_cons.mpr
            ⟨le_refl k, (Memory.wfFrom_cons.mp h0).2⟩) (le_refl k)) hlt
          simp [Memory.byteAt, hnone, hb]
        · simp [hx]
      · rw [hcons]
        rcases eq_or_ne x a with rfl | hx
        · simp
        · simp [hx, hx.symm]
    · next hlt =>
      split
      · next heq =>
        subst heq
        split
        · next hb =>
          rw [hcons]
          by_cases hx : x = a
          · subst hx
            simp [Memory.byteAt, Memory.lookup_below hrest (Nat.lt_succ_self x), hb]
          · simp [hx, Ne.symm hx]
        · rw [hcons, hcons]
          rcases eq_or_ne x a with rfl | hx
          · simp
          · simp [hx, hx.symm]
      · next hne =>
        rw [hcons, hcons, ih hrest]
        by_cases hkx : k = x
        · subst hkx
          simp [Ne.symm hne]
        · simp [hkx]

/-- A read after a write: the value written at its address, and every other byte as before (R50). -/
theorem Memory.byteAt_put {m : Memory} (h : m.wf = true) (a : Nat) (b : Byte) (x : Nat) :
    (m.put a b).byteAt x = if x = a then b else m.byteAt x :=
  Memory.byteAt_put_from h x

/-- A read outside the bytes a multi-byte write stores gives what it gave before. -/
theorem Memory.byteAt_putBytes_outside {m : Memory} {base : Nat} {bs : List Byte} (h : m.wf = true)
    (hend : base + bs.length ≤ Config.memSize) {x : Nat} (hx : x < base ∨ base + bs.length ≤ x) :
    (m.putBytes base bs).byteAt x = m.byteAt x := by
  induction bs generalizing m base with
  | nil => rfl
  | cons b bs ih =>
    rw [List.length_cons] at hend hx
    have hne : x ≠ base := by omega
    rw [Memory.putBytes, ih (Memory.wf_put h (by omega)) (by omega) (by omega), Memory.byteAt_put h, if_neg hne]

/-- A read of one of the bytes a multi-byte write stores gives that byte. -/
theorem Memory.byteAt_putBytes_inside {m : Memory} {base : Nat} {bs : List Byte} (h : m.wf = true)
    (hend : base + bs.length ≤ Config.memSize) {k : Nat} (hk : k < bs.length) :
    (m.putBytes base bs).byteAt (base + k) = bs[k] := by
  induction bs generalizing m base k with
  | nil => simp at hk
  | cons b bs ih =>
    rw [List.length_cons] at hend hk
    have hwf : (m.put base b).wf = true := Memory.wf_put h (by omega)
    cases k with
    | zero =>
      rw [Memory.putBytes, Memory.byteAt_putBytes_outside hwf (by omega) (Or.inl (by omega)), Memory.byteAt_put h]
      simp
    | succ k =>
      have := ih (m := m.put base b) (base := base + 1) (k := k) hwf (by omega) (by omega)
      rw [Memory.putBytes, show base + (k + 1) = base + 1 + k by omega, this]
      rfl

/-! ### The checked accesses -/

/-- `MemWrite` succeeds exactly inside program memory, and then it is `put` (R47). -/
theorem Memory.write_eq_some {m m' : Memory} {a : Nat} {b : Byte} :
    m.write a b = some m' ↔ (Config.progBase ≤ a ∧ a ≤ Config.memTop) ∧ m' = m.put a b := by
  unfold Memory.write
  split
  · next h => simp [h, eq_comm]
  · next h => simp [h]

/-- A multi-byte write succeeds exactly when its range test does, and then it is `putBytes` (R48). -/
theorem Memory.writeBytes_eq_some {m m' : Memory} {base : Nat} {bs : List Byte} :
    m.writeBytes base bs = some m' ↔ writeRangeOk base bs.length = true ∧ m' = m.putBytes base bs := by
  unfold Memory.writeBytes
  split
  · next h => simp [h, eq_comm]
  · next h => simp [h]

/-- A multi-byte write fails exactly when its range test does (R48). -/
theorem Memory.writeBytes_eq_none {m : Memory} {base : Nat} {bs : List Byte} :
    m.writeBytes base bs = none ↔ writeRangeOk base bs.length = false := by
  unfold Memory.writeBytes
  split
  · next h => simp [h]
  · next h => simpa using h

/-- A multi-byte read succeeds exactly when its range test does, and then it is `bytesAt` (R48). -/
theorem Memory.readBytes_eq_some {m : Memory} {base count : Nat} {bs : List Byte} :
    m.readBytes base count = some bs ↔ readRangeOk base count = true ∧ bs = m.bytesAt base count := by
  unfold Memory.readBytes
  split
  · next h => simp [h, eq_comm]
  · next h => simp [h]

/-- A multi-byte read fails exactly when its range test does (R48). -/
theorem Memory.readBytes_eq_none {m : Memory} {base count : Nat} :
    m.readBytes base count = none ↔ readRangeOk base count = false := by
  unfold Memory.readBytes
  split
  · next h => simp [h]
  · next h => simpa using h

/-- What the range test of a read says, for at least one byte (R48). -/
theorem readRangeOk_iff {base count : Nat} (h : 0 < count) :
    readRangeOk base count = true ↔ base + count - 1 ≤ Config.memTop := by
  have : count ≠ 0 := by omega
  simp [readRangeOk, this]

/-- What the range test of a write says, for at least one byte (R48). -/
theorem writeRangeOk_iff {base count : Nat} (h : 0 < count) :
    writeRangeOk base count = true ↔ Config.progBase ≤ base ∧ base + count - 1 ≤ Config.memTop := by
  have : count ≠ 0 := by omega
  simp [writeRangeOk, this]

@[simp] theorem Memory.bytesAt_length (m : Memory) (base count : Nat) : (m.bytesAt base count).length = count := by
  induction count generalizing base with
  | zero => rfl
  | succ n ih => simp [Memory.bytesAt, ih]

theorem Memory.bytesAt_getElem (m : Memory) (base count k : Nat) (hk : k < (m.bytesAt base count).length) :
    (m.bytesAt base count)[k] = m.byteAt (base + k) := by
  induction count generalizing base k with
  | zero => simp [Memory.bytesAt] at hk
  | succ n ih =>
    cases k with
    | zero => rfl
    | succ k =>
      have hk' : k < (m.bytesAt (base + 1) n).length := by
        simp [Memory.bytesAt] at hk ⊢
        omega
      simpa [Memory.bytesAt, Nat.add_assoc, Nat.add_comm 1 k] using ih (base + 1) k hk'

/-- A write that its check lets through keeps the canonical form. -/
theorem Memory.wf_write {m m' : Memory} {a : Nat} {b : Byte} (h : m.wf = true) (hw : m.write a b = some m') :
    m'.wf = true := by
  obtain ⟨⟨-, ha⟩, rfl⟩ := Memory.write_eq_some.mp hw
  exact Memory.wf_put h (by simp only [Config.memTop, Config.memSize] at *; omega)

/-- A multi-byte write that its range test lets through keeps the canonical form. -/
theorem Memory.wf_writeBytes {m m' : Memory} {base : Nat} {bs : List Byte} (h : m.wf = true)
    (hw : m.writeBytes base bs = some m') : m'.wf = true := by
  obtain ⟨hok, rfl⟩ := Memory.writeBytes_eq_some.mp hw
  cases bs with
  | nil => exact h
  | cons b bs =>
    have hr := (writeRangeOk_iff (by simp)).mp hok
    exact Memory.wf_putBytes h (by simp only [Config.memTop, Config.memSize, List.length_cons] at *; omega)

/-- Reset's memory is in canonical form. -/
theorem reset_mem_wf : State.reset.mem.wf = true := rfl

end Sys2Proof.Machine
end

