-- ==== Sys2Proof/Laws/State.lean ====
section
/-! SUPPORT. What each update of the state does to each field, once, so that no later proof unfolds an update. -/

namespace Sys2Proof.Machine

/-! ### `setMem` -/

@[simp] theorem State.setMem_V (s : State) (m : Memory) : (s.setMem m).V = s.V := rfl
@[simp] theorem State.setMem_I (s : State) (m : Memory) : (s.setMem m).I = s.I := rfl
@[simp] theorem State.setMem_pc (s : State) (m : Memory) : (s.setMem m).pc = s.pc := rfl
@[simp] theorem State.setMem_stack (s : State) (m : Memory) : (s.setMem m).stack = s.stack := rfl
@[simp] theorem State.setMem_sp (s : State) (m : Memory) : (s.setMem m).sp = s.sp := rfl
@[simp] theorem State.setMem_mem (s : State) (m : Memory) : (s.setMem m).mem = m := rfl
@[simp] theorem State.setMem_fb (s : State) (m : Memory) : (s.setMem m).fb = s.fb := rfl
@[simp] theorem State.setMem_keys (s : State) (m : Memory) : (s.setMem m).keys = s.keys := rfl
@[simp] theorem State.setMem_dt (s : State) (m : Memory) : (s.setMem m).dt = s.dt := rfl
@[simp] theorem State.setMem_st (s : State) (m : Memory) : (s.setMem m).st = s.st := rfl
@[simp] theorem State.setMem_phase (s : State) (m : Memory) : (s.setMem m).phase = s.phase := rfl
@[simp] theorem State.setMem_awaitX (s : State) (m : Memory) : (s.setMem m).awaitX = s.awaitX := rfl
@[simp] theorem State.setMem_fault (s : State) (m : Memory) : (s.setMem m).fault = s.fault := rfl
@[simp] theorem State.setMem_tValid (s : State) (m : Memory) : (s.setMem m).tValid = s.tValid := rfl
@[simp] theorem State.setMem_tLast (s : State) (m : Memory) : (s.setMem m).tLast = s.tLast := rfl
@[simp] theorem State.setMem_tRem3 (s : State) (m : Memory) : (s.setMem m).tRem3 = s.tRem3 := rfl
@[simp] theorem State.setMem_draws (s : State) (m : Memory) : (s.setMem m).draws = s.draws := rfl

/-! ### `raise` -/

@[simp] theorem State.raise_V (s : State) (k : FaultKind) : (s.raise k).V = s.V := rfl
@[simp] theorem State.raise_I (s : State) (k : FaultKind) : (s.raise k).I = s.I := rfl
@[simp] theorem State.raise_pc (s : State) (k : FaultKind) : (s.raise k).pc = s.pc := rfl
@[simp] theorem State.raise_stack (s : State) (k : FaultKind) : (s.raise k).stack = s.stack := rfl
@[simp] theorem State.raise_sp (s : State) (k : FaultKind) : (s.raise k).sp = s.sp := rfl
@[simp] theorem State.raise_mem (s : State) (k : FaultKind) : (s.raise k).mem = s.mem := rfl
@[simp] theorem State.raise_fb (s : State) (k : FaultKind) : (s.raise k).fb = s.fb := rfl
@[simp] theorem State.raise_keys (s : State) (k : FaultKind) : (s.raise k).keys = s.keys := rfl
@[simp] theorem State.raise_dt (s : State) (k : FaultKind) : (s.raise k).dt = s.dt := rfl
@[simp] theorem State.raise_st (s : State) (k : FaultKind) : (s.raise k).st = s.st := rfl
@[simp] theorem State.raise_phase (s : State) (k : FaultKind) : (s.raise k).phase = .halted := rfl
@[simp] theorem State.raise_awaitX (s : State) (k : FaultKind) : (s.raise k).awaitX = s.awaitX := rfl
@[simp] theorem State.raise_fault (s : State) (k : FaultKind) : (s.raise k).fault = k := rfl
@[simp] theorem State.raise_tValid (s : State) (k : FaultKind) : (s.raise k).tValid = s.tValid := rfl
@[simp] theorem State.raise_tLast (s : State) (k : FaultKind) : (s.raise k).tLast = s.tLast := rfl
@[simp] theorem State.raise_tRem3 (s : State) (k : FaultKind) : (s.raise k).tRem3 = s.tRem3 := rfl
@[simp] theorem State.raise_draws (s : State) (k : FaultKind) : (s.raise k).draws = s.draws := rfl

/-! ### `setPc` -/

@[simp] theorem State.setPc_V (s : State) (a : Word) : (s.setPc a).V = s.V := rfl
@[simp] theorem State.setPc_I (s : State) (a : Word) : (s.setPc a).I = s.I := rfl
@[simp] theorem State.setPc_pc (s : State) (a : Word) : (s.setPc a).pc = a := rfl
@[simp] theorem State.setPc_stack (s : State) (a : Word) : (s.setPc a).stack = s.stack := rfl
@[simp] theorem State.setPc_sp (s : State) (a : Word) : (s.setPc a).sp = s.sp := rfl
@[simp] theorem State.setPc_mem (s : State) (a : Word) : (s.setPc a).mem = s.mem := rfl
@[simp] theorem State.setPc_fb (s : State) (a : Word) : (s.setPc a).fb = s.fb := rfl
@[simp] theorem State.setPc_keys (s : State) (a : Word) : (s.setPc a).keys = s.keys := rfl
@[simp] theorem State.setPc_dt (s : State) (a : Word) : (s.setPc a).dt = s.dt := rfl
@[simp] theorem State.setPc_st (s : State) (a : Word) : (s.setPc a).st = s.st := rfl
@[simp] theorem State.setPc_phase (s : State) (a : Word) : (s.setPc a).phase = s.phase := rfl
@[simp] theorem State.setPc_awaitX (s : State) (a : Word) : (s.setPc a).awaitX = s.awaitX := rfl
@[simp] theorem State.setPc_fault (s : State) (a : Word) : (s.setPc a).fault = s.fault := rfl
@[simp] theorem State.setPc_tValid (s : State) (a : Word) : (s.setPc a).tValid = s.tValid := rfl
@[simp] theorem State.setPc_tLast (s : State) (a : Word) : (s.setPc a).tLast = s.tLast := rfl
@[simp] theorem State.setPc_tRem3 (s : State) (a : Word) : (s.setPc a).tRem3 = s.tRem3 := rfl
@[simp] theorem State.setPc_draws (s : State) (a : Word) : (s.setPc a).draws = s.draws := rfl

/-! ### `setFb` -/

@[simp] theorem State.setFb_V (s : State) (fb : Framebuffer) : (s.setFb fb).V = s.V := rfl
@[simp] theorem State.setFb_I (s : State) (fb : Framebuffer) : (s.setFb fb).I = s.I := rfl
@[simp] theorem State.setFb_pc (s : State) (fb : Framebuffer) : (s.setFb fb).pc = s.pc := rfl
@[simp] theorem State.setFb_stack (s : State) (fb : Framebuffer) : (s.setFb fb).stack = s.stack := rfl
@[simp] theorem State.setFb_sp (s : State) (fb : Framebuffer) : (s.setFb fb).sp = s.sp := rfl
@[simp] theorem State.setFb_mem (s : State) (fb : Framebuffer) : (s.setFb fb).mem = s.mem := rfl
@[simp] theorem State.setFb_fb (s : State) (fb : Framebuffer) : (s.setFb fb).fb = fb := rfl
@[simp] theorem State.setFb_keys (s : State) (fb : Framebuffer) : (s.setFb fb).keys = s.keys := rfl
@[simp] theorem State.setFb_dt (s : State) (fb : Framebuffer) : (s.setFb fb).dt = s.dt := rfl
@[simp] theorem State.setFb_st (s : State) (fb : Framebuffer) : (s.setFb fb).st = s.st := rfl
@[simp] theorem State.setFb_phase (s : State) (fb : Framebuffer) : (s.setFb fb).phase = s.phase := rfl
@[simp] theorem State.setFb_awaitX (s : State) (fb : Framebuffer) : (s.setFb fb).awaitX = s.awaitX := rfl
@[simp] theorem State.setFb_fault (s : State) (fb : Framebuffer) : (s.setFb fb).fault = s.fault := rfl
@[simp] theorem State.setFb_tValid (s : State) (fb : Framebuffer) : (s.setFb fb).tValid = s.tValid := rfl
@[simp] theorem State.setFb_tLast (s : State) (fb : Framebuffer) : (s.setFb fb).tLast = s.tLast := rfl
@[simp] theorem State.setFb_tRem3 (s : State) (fb : Framebuffer) : (s.setFb fb).tRem3 = s.tRem3 := rfl
@[simp] theorem State.setFb_draws (s : State) (fb : Framebuffer) : (s.setFb fb).draws = s.draws := rfl

/-! ### `setReg` -/

@[simp] theorem State.setReg_V (s : State) (x : RegIdx) (b : Byte) : (s.setReg x b).V = s.V.set x.val b x.isLt := rfl
@[simp] theorem State.setReg_I (s : State) (x : RegIdx) (b : Byte) : (s.setReg x b).I = s.I := rfl
@[simp] theorem State.setReg_pc (s : State) (x : RegIdx) (b : Byte) : (s.setReg x b).pc = s.pc := rfl
@[simp] theorem State.setReg_stack (s : State) (x : RegIdx) (b : Byte) : (s.setReg x b).stack = s.stack := rfl
@[simp] theorem State.setReg_sp (s : State) (x : RegIdx) (b : Byte) : (s.setReg x b).sp = s.sp := rfl
@[simp] theorem State.setReg_mem (s : State) (x : RegIdx) (b : Byte) : (s.setReg x b).mem = s.mem := rfl
@[simp] theorem State.setReg_fb (s : State) (x : RegIdx) (b : Byte) : (s.setReg x b).fb = s.fb := rfl
@[simp] theorem State.setReg_keys (s : State) (x : RegIdx) (b : Byte) : (s.setReg x b).keys = s.keys := rfl
@[simp] theorem State.setReg_dt (s : State) (x : RegIdx) (b : Byte) : (s.setReg x b).dt = s.dt := rfl
@[simp] theorem State.setReg_st (s : State) (x : RegIdx) (b : Byte) : (s.setReg x b).st = s.st := rfl
@[simp] theorem State.setReg_phase (s : State) (x : RegIdx) (b : Byte) : (s.setReg x b).phase = s.phase := rfl
@[simp] theorem State.setReg_awaitX (s : State) (x : RegIdx) (b : Byte) : (s.setReg x b).awaitX = s.awaitX := rfl
@[simp] theorem State.setReg_fault (s : State) (x : RegIdx) (b : Byte) : (s.setReg x b).fault = s.fault := rfl
@[simp] theorem State.setReg_tValid (s : State) (x : RegIdx) (b : Byte) : (s.setReg x b).tValid = s.tValid := rfl
@[simp] theorem State.setReg_tLast (s : State) (x : RegIdx) (b : Byte) : (s.setReg x b).tLast = s.tLast := rfl
@[simp] theorem State.setReg_tRem3 (s : State) (x : RegIdx) (b : Byte) : (s.setReg x b).tRem3 = s.tRem3 := rfl
@[simp] theorem State.setReg_draws (s : State) (x : RegIdx) (b : Byte) : (s.setReg x b).draws = s.draws := rfl

/-! ### `setI` -/

@[simp] theorem State.setI_V (s : State) (a : Word) : (s.setI a).V = s.V := rfl
@[simp] theorem State.setI_I (s : State) (a : Word) : (s.setI a).I = a := rfl
@[simp] theorem State.setI_pc (s : State) (a : Word) : (s.setI a).pc = s.pc := rfl
@[simp] theorem State.setI_stack (s : State) (a : Word) : (s.setI a).stack = s.stack := rfl
@[simp] theorem State.setI_sp (s : State) (a : Word) : (s.setI a).sp = s.sp := rfl
@[simp] theorem State.setI_mem (s : State) (a : Word) : (s.setI a).mem = s.mem := rfl
@[simp] theorem State.setI_fb (s : State) (a : Word) : (s.setI a).fb = s.fb := rfl
@[simp] theorem State.setI_keys (s : State) (a : Word) : (s.setI a).keys = s.keys := rfl
@[simp] theorem State.setI_dt (s : State) (a : Word) : (s.setI a).dt = s.dt := rfl
@[simp] theorem State.setI_st (s : State) (a : Word) : (s.setI a).st = s.st := rfl
@[simp] theorem State.setI_phase (s : State) (a : Word) : (s.setI a).phase = s.phase := rfl
@[simp] theorem State.setI_awaitX (s : State) (a : Word) : (s.setI a).awaitX = s.awaitX := rfl
@[simp] theorem State.setI_fault (s : State) (a : Word) : (s.setI a).fault = s.fault := rfl
@[simp] theorem State.setI_tValid (s : State) (a : Word) : (s.setI a).tValid = s.tValid := rfl
@[simp] theorem State.setI_tLast (s : State) (a : Word) : (s.setI a).tLast = s.tLast := rfl
@[simp] theorem State.setI_tRem3 (s : State) (a : Word) : (s.setI a).tRem3 = s.tRem3 := rfl
@[simp] theorem State.setI_draws (s : State) (a : Word) : (s.setI a).draws = s.draws := rfl

/-! ### `setDt` -/

@[simp] theorem State.setDt_V (s : State) (b : Byte) : (s.setDt b).V = s.V := rfl
@[simp] theorem State.setDt_I (s : State) (b : Byte) : (s.setDt b).I = s.I := rfl
@[simp] theorem State.setDt_pc (s : State) (b : Byte) : (s.setDt b).pc = s.pc := rfl
@[simp] theorem State.setDt_stack (s : State) (b : Byte) : (s.setDt b).stack = s.stack := rfl
@[simp] theorem State.setDt_sp (s : State) (b : Byte) : (s.setDt b).sp = s.sp := rfl
@[simp] theorem State.setDt_mem (s : State) (b : Byte) : (s.setDt b).mem = s.mem := rfl
@[simp] theorem State.setDt_fb (s : State) (b : Byte) : (s.setDt b).fb = s.fb := rfl
@[simp] theorem State.setDt_keys (s : State) (b : Byte) : (s.setDt b).keys = s.keys := rfl
@[simp] theorem State.setDt_dt (s : State) (b : Byte) : (s.setDt b).dt = b := rfl
@[simp] theorem State.setDt_st (s : State) (b : Byte) : (s.setDt b).st = s.st := rfl
@[simp] theorem State.setDt_phase (s : State) (b : Byte) : (s.setDt b).phase = s.phase := rfl
@[simp] theorem State.setDt_awaitX (s : State) (b : Byte) : (s.setDt b).awaitX = s.awaitX := rfl
@[simp] theorem State.setDt_fault (s : State) (b : Byte) : (s.setDt b).fault = s.fault := rfl
@[simp] theorem State.setDt_tValid (s : State) (b : Byte) : (s.setDt b).tValid = s.tValid := rfl
@[simp] theorem State.setDt_tLast (s : State) (b : Byte) : (s.setDt b).tLast = s.tLast := rfl
@[simp] theorem State.setDt_tRem3 (s : State) (b : Byte) : (s.setDt b).tRem3 = s.tRem3 := rfl
@[simp] theorem State.setDt_draws (s : State) (b : Byte) : (s.setDt b).draws = s.draws := rfl

/-! ### `setSt` -/

@[simp] theorem State.setSt_V (s : State) (b : Byte) : (s.setSt b).V = s.V := rfl
@[simp] theorem State.setSt_I (s : State) (b : Byte) : (s.setSt b).I = s.I := rfl
@[simp] theorem State.setSt_pc (s : State) (b : Byte) : (s.setSt b).pc = s.pc := rfl
@[simp] theorem State.setSt_stack (s : State) (b : Byte) : (s.setSt b).stack = s.stack := rfl
@[simp] theorem State.setSt_sp (s : State) (b : Byte) : (s.setSt b).sp = s.sp := rfl
@[simp] theorem State.setSt_mem (s : State) (b : Byte) : (s.setSt b).mem = s.mem := rfl
@[simp] theorem State.setSt_fb (s : State) (b : Byte) : (s.setSt b).fb = s.fb := rfl
@[simp] theorem State.setSt_keys (s : State) (b : Byte) : (s.setSt b).keys = s.keys := rfl
@[simp] theorem State.setSt_dt (s : State) (b : Byte) : (s.setSt b).dt = s.dt := rfl
@[simp] theorem State.setSt_st (s : State) (b : Byte) : (s.setSt b).st = b := rfl
@[simp] theorem State.setSt_phase (s : State) (b : Byte) : (s.setSt b).phase = s.phase := rfl
@[simp] theorem State.setSt_awaitX (s : State) (b : Byte) : (s.setSt b).awaitX = s.awaitX := rfl
@[simp] theorem State.setSt_fault (s : State) (b : Byte) : (s.setSt b).fault = s.fault := rfl
@[simp] theorem State.setSt_tValid (s : State) (b : Byte) : (s.setSt b).tValid = s.tValid := rfl
@[simp] theorem State.setSt_tLast (s : State) (b : Byte) : (s.setSt b).tLast = s.tLast := rfl
@[simp] theorem State.setSt_tRem3 (s : State) (b : Byte) : (s.setSt b).tRem3 = s.tRem3 := rfl
@[simp] theorem State.setSt_draws (s : State) (b : Byte) : (s.setSt b).draws = s.draws := rfl

/-! ### `setRegBlock` -/

@[simp] theorem State.setRegBlock_V (s : State) (bs : List Byte) : (s.setRegBlock bs).V = setBlock s.V 0 bs := rfl
@[simp] theorem State.setRegBlock_I (s : State) (bs : List Byte) : (s.setRegBlock bs).I = s.I := rfl
@[simp] theorem State.setRegBlock_pc (s : State) (bs : List Byte) : (s.setRegBlock bs).pc = s.pc := rfl
@[simp] theorem State.setRegBlock_stack (s : State) (bs : List Byte) : (s.setRegBlock bs).stack = s.stack := rfl
@[simp] theorem State.setRegBlock_sp (s : State) (bs : List Byte) : (s.setRegBlock bs).sp = s.sp := rfl
@[simp] theorem State.setRegBlock_mem (s : State) (bs : List Byte) : (s.setRegBlock bs).mem = s.mem := rfl
@[simp] theorem State.setRegBlock_fb (s : State) (bs : List Byte) : (s.setRegBlock bs).fb = s.fb := rfl
@[simp] theorem State.setRegBlock_keys (s : State) (bs : List Byte) : (s.setRegBlock bs).keys = s.keys := rfl
@[simp] theorem State.setRegBlock_dt (s : State) (bs : List Byte) : (s.setRegBlock bs).dt = s.dt := rfl
@[simp] theorem State.setRegBlock_st (s : State) (bs : List Byte) : (s.setRegBlock bs).st = s.st := rfl
@[simp] theorem State.setRegBlock_phase (s : State) (bs : List Byte) : (s.setRegBlock bs).phase = s.phase := rfl
@[simp] theorem State.setRegBlock_awaitX (s : State) (bs : List Byte) : (s.setRegBlock bs).awaitX = s.awaitX := rfl
@[simp] theorem State.setRegBlock_fault (s : State) (bs : List Byte) : (s.setRegBlock bs).fault = s.fault := rfl
@[simp] theorem State.setRegBlock_tValid (s : State) (bs : List Byte) : (s.setRegBlock bs).tValid = s.tValid := rfl
@[simp] theorem State.setRegBlock_tLast (s : State) (bs : List Byte) : (s.setRegBlock bs).tLast = s.tLast := rfl
@[simp] theorem State.setRegBlock_tRem3 (s : State) (bs : List Byte) : (s.setRegBlock bs).tRem3 = s.tRem3 := rfl
@[simp] theorem State.setRegBlock_draws (s : State) (bs : List Byte) : (s.setRegBlock bs).draws = s.draws := rfl

/-! ### `setFlag` -/

@[simp] theorem State.setFlag_V (s : State) (f : Bool) : (s.setFlag f).V = s.V.set 15 (flagByte f) := rfl
@[simp] theorem State.setFlag_I (s : State) (f : Bool) : (s.setFlag f).I = s.I := rfl
@[simp] theorem State.setFlag_pc (s : State) (f : Bool) : (s.setFlag f).pc = s.pc := rfl
@[simp] theorem State.setFlag_stack (s : State) (f : Bool) : (s.setFlag f).stack = s.stack := rfl
@[simp] theorem State.setFlag_sp (s : State) (f : Bool) : (s.setFlag f).sp = s.sp := rfl
@[simp] theorem State.setFlag_mem (s : State) (f : Bool) : (s.setFlag f).mem = s.mem := rfl
@[simp] theorem State.setFlag_fb (s : State) (f : Bool) : (s.setFlag f).fb = s.fb := rfl
@[simp] theorem State.setFlag_keys (s : State) (f : Bool) : (s.setFlag f).keys = s.keys := rfl
@[simp] theorem State.setFlag_dt (s : State) (f : Bool) : (s.setFlag f).dt = s.dt := rfl
@[simp] theorem State.setFlag_st (s : State) (f : Bool) : (s.setFlag f).st = s.st := rfl
@[simp] theorem State.setFlag_phase (s : State) (f : Bool) : (s.setFlag f).phase = s.phase := rfl
@[simp] theorem State.setFlag_awaitX (s : State) (f : Bool) : (s.setFlag f).awaitX = s.awaitX := rfl
@[simp] theorem State.setFlag_fault (s : State) (f : Bool) : (s.setFlag f).fault = s.fault := rfl
@[simp] theorem State.setFlag_tValid (s : State) (f : Bool) : (s.setFlag f).tValid = s.tValid := rfl
@[simp] theorem State.setFlag_tLast (s : State) (f : Bool) : (s.setFlag f).tLast = s.tLast := rfl
@[simp] theorem State.setFlag_tRem3 (s : State) (f : Bool) : (s.setFlag f).tRem3 = s.tRem3 := rfl
@[simp] theorem State.setFlag_draws (s : State) (f : Bool) : (s.setFlag f).draws = s.draws := rfl

/-! ### `setResultFlag` -/

@[simp] theorem State.setResultFlag_V (s : State) (x : RegIdx) (b : Byte) (f : Bool) : (s.setResultFlag x b f).V = (s.V.set x.val b x.isLt).set 15 (flagByte f) := rfl
@[simp] theorem State.setResultFlag_I (s : State) (x : RegIdx) (b : Byte) (f : Bool) : (s.setResultFlag x b f).I = s.I := rfl
@[simp] theorem State.setResultFlag_pc (s : State) (x : RegIdx) (b : Byte) (f : Bool) : (s.setResultFlag x b f).pc = s.pc := rfl
@[simp] theorem State.setResultFlag_stack (s : State) (x : RegIdx) (b : Byte) (f : Bool) : (s.setResultFlag x b f).stack = s.stack := rfl
@[simp] theorem State.setResultFlag_sp (s : State) (x : RegIdx) (b : Byte) (f : Bool) : (s.setResultFlag x b f).sp = s.sp := rfl
@[simp] theorem State.setResultFlag_mem (s : State) (x : RegIdx) (b : Byte) (f : Bool) : (s.setResultFlag x b f).mem = s.mem := rfl
@[simp] theorem State.setResultFlag_fb (s : State) (x : RegIdx) (b : Byte) (f : Bool) : (s.setResultFlag x b f).fb = s.fb := rfl
@[simp] theorem State.setResultFlag_keys (s : State) (x : RegIdx) (b : Byte) (f : Bool) : (s.setResultFlag x b f).keys = s.keys := rfl
@[simp] theorem State.setResultFlag_dt (s : State) (x : RegIdx) (b : Byte) (f : Bool) : (s.setResultFlag x b f).dt = s.dt := rfl
@[simp] theorem State.setResultFlag_st (s : State) (x : RegIdx) (b : Byte) (f : Bool) : (s.setResultFlag x b f).st = s.st := rfl
@[simp] theorem State.setResultFlag_phase (s : State) (x : RegIdx) (b : Byte) (f : Bool) : (s.setResultFlag x b f).phase = s.phase := rfl
@[simp] theorem State.setResultFlag_awaitX (s : State) (x : RegIdx) (b : Byte) (f : Bool) : (s.setResultFlag x b f).awaitX = s.awaitX := rfl
@[simp] theorem State.setResultFlag_fault (s : State) (x : RegIdx) (b : Byte) (f : Bool) : (s.setResultFlag x b f).fault = s.fault := rfl
@[simp] theorem State.setResultFlag_tValid (s : State) (x : RegIdx) (b : Byte) (f : Bool) : (s.setResultFlag x b f).tValid = s.tValid := rfl
@[simp] theorem State.setResultFlag_tLast (s : State) (x : RegIdx) (b : Byte) (f : Bool) : (s.setResultFlag x b f).tLast = s.tLast := rfl
@[simp] theorem State.setResultFlag_tRem3 (s : State) (x : RegIdx) (b : Byte) (f : Bool) : (s.setResultFlag x b f).tRem3 = s.tRem3 := rfl
@[simp] theorem State.setResultFlag_draws (s : State) (x : RegIdx) (b : Byte) (f : Bool) : (s.setResultFlag x b f).draws = s.draws := rfl

/-! ### `countDraw` -/

@[simp] theorem State.countDraw_V (s : State) : (s.countDraw).V = s.V := rfl
@[simp] theorem State.countDraw_I (s : State) : (s.countDraw).I = s.I := rfl
@[simp] theorem State.countDraw_pc (s : State) : (s.countDraw).pc = s.pc := rfl
@[simp] theorem State.countDraw_stack (s : State) : (s.countDraw).stack = s.stack := rfl
@[simp] theorem State.countDraw_sp (s : State) : (s.countDraw).sp = s.sp := rfl
@[simp] theorem State.countDraw_mem (s : State) : (s.countDraw).mem = s.mem := rfl
@[simp] theorem State.countDraw_fb (s : State) : (s.countDraw).fb = s.fb := rfl
@[simp] theorem State.countDraw_keys (s : State) : (s.countDraw).keys = s.keys := rfl
@[simp] theorem State.countDraw_dt (s : State) : (s.countDraw).dt = s.dt := rfl
@[simp] theorem State.countDraw_st (s : State) : (s.countDraw).st = s.st := rfl
@[simp] theorem State.countDraw_phase (s : State) : (s.countDraw).phase = s.phase := rfl
@[simp] theorem State.countDraw_awaitX (s : State) : (s.countDraw).awaitX = s.awaitX := rfl
@[simp] theorem State.countDraw_fault (s : State) : (s.countDraw).fault = s.fault := rfl
@[simp] theorem State.countDraw_tValid (s : State) : (s.countDraw).tValid = s.tValid := rfl
@[simp] theorem State.countDraw_tLast (s : State) : (s.countDraw).tLast = s.tLast := rfl
@[simp] theorem State.countDraw_tRem3 (s : State) : (s.countDraw).tRem3 = s.tRem3 := rfl
@[simp] theorem State.countDraw_draws (s : State) : (s.countDraw).draws = s.draws + 1 := rfl

/-! ### `awaitKeyInto` -/

@[simp] theorem State.awaitKeyInto_V (s : State) (x : RegIdx) : (s.awaitKeyInto x).V = s.V := rfl
@[simp] theorem State.awaitKeyInto_I (s : State) (x : RegIdx) : (s.awaitKeyInto x).I = s.I := rfl
@[simp] theorem State.awaitKeyInto_pc (s : State) (x : RegIdx) : (s.awaitKeyInto x).pc = s.pc := rfl
@[simp] theorem State.awaitKeyInto_stack (s : State) (x : RegIdx) : (s.awaitKeyInto x).stack = s.stack := rfl
@[simp] theorem State.awaitKeyInto_sp (s : State) (x : RegIdx) : (s.awaitKeyInto x).sp = s.sp := rfl
@[simp] theorem State.awaitKeyInto_mem (s : State) (x : RegIdx) : (s.awaitKeyInto x).mem = s.mem := rfl
@[simp] theorem State.awaitKeyInto_fb (s : State) (x : RegIdx) : (s.awaitKeyInto x).fb = s.fb := rfl
@[simp] theorem State.awaitKeyInto_keys (s : State) (x : RegIdx) : (s.awaitKeyInto x).keys = s.keys := rfl
@[simp] theorem State.awaitKeyInto_dt (s : State) (x : RegIdx) : (s.awaitKeyInto x).dt = s.dt := rfl
@[simp] theorem State.awaitKeyInto_st (s : State) (x : RegIdx) : (s.awaitKeyInto x).st = s.st := rfl
@[simp] theorem State.awaitKeyInto_phase (s : State) (x : RegIdx) : (s.awaitKeyInto x).phase = .awaitKey := rfl
@[simp] theorem State.awaitKeyInto_awaitX (s : State) (x : RegIdx) : (s.awaitKeyInto x).awaitX = x := rfl
@[simp] theorem State.awaitKeyInto_fault (s : State) (x : RegIdx) : (s.awaitKeyInto x).fault = s.fault := rfl
@[simp] theorem State.awaitKeyInto_tValid (s : State) (x : RegIdx) : (s.awaitKeyInto x).tValid = s.tValid := rfl
@[simp] theorem State.awaitKeyInto_tLast (s : State) (x : RegIdx) : (s.awaitKeyInto x).tLast = s.tLast := rfl
@[simp] theorem State.awaitKeyInto_tRem3 (s : State) (x : RegIdx) : (s.awaitKeyInto x).tRem3 = s.tRem3 := rfl
@[simp] theorem State.awaitKeyInto_draws (s : State) (x : RegIdx) : (s.awaitKeyInto x).draws = s.draws := rfl

/-! ### `loaded` -/

@[simp] theorem State.loaded_V (s : State) (image : List Byte) : (s.loaded image).V = s.V := rfl
@[simp] theorem State.loaded_I (s : State) (image : List Byte) : (s.loaded image).I = s.I := rfl
@[simp] theorem State.loaded_pc (s : State) (image : List Byte) : (s.loaded image).pc = s.pc := rfl
@[simp] theorem State.loaded_stack (s : State) (image : List Byte) : (s.loaded image).stack = s.stack := rfl
@[simp] theorem State.loaded_sp (s : State) (image : List Byte) : (s.loaded image).sp = s.sp := rfl
@[simp] theorem State.loaded_mem (s : State) (image : List Byte) : (s.loaded image).mem = s.mem.putBytes Config.progBase image := rfl
@[simp] theorem State.loaded_fb (s : State) (image : List Byte) : (s.loaded image).fb = s.fb := rfl
@[simp] theorem State.loaded_keys (s : State) (image : List Byte) : (s.loaded image).keys = s.keys := rfl
@[simp] theorem State.loaded_dt (s : State) (image : List Byte) : (s.loaded image).dt = s.dt := rfl
@[simp] theorem State.loaded_st (s : State) (image : List Byte) : (s.loaded image).st = s.st := rfl
@[simp] theorem State.loaded_phase (s : State) (image : List Byte) : (s.loaded image).phase = .running := rfl
@[simp] theorem State.loaded_awaitX (s : State) (image : List Byte) : (s.loaded image).awaitX = s.awaitX := rfl
@[simp] theorem State.loaded_fault (s : State) (image : List Byte) : (s.loaded image).fault = s.fault := rfl
@[simp] theorem State.loaded_tValid (s : State) (image : List Byte) : (s.loaded image).tValid = s.tValid := rfl
@[simp] theorem State.loaded_tLast (s : State) (image : List Byte) : (s.loaded image).tLast = s.tLast := rfl
@[simp] theorem State.loaded_tRem3 (s : State) (image : List Byte) : (s.loaded image).tRem3 = s.tRem3 := rfl
@[simp] theorem State.loaded_draws (s : State) (image : List Byte) : (s.loaded image).draws = s.draws := rfl

/-! ### `setKey` -/

@[simp] theorem State.setKey_V (s : State) (k : KeyId) (b : Bool) : (s.setKey k b).V = s.V := rfl
@[simp] theorem State.setKey_I (s : State) (k : KeyId) (b : Bool) : (s.setKey k b).I = s.I := rfl
@[simp] theorem State.setKey_pc (s : State) (k : KeyId) (b : Bool) : (s.setKey k b).pc = s.pc := rfl
@[simp] theorem State.setKey_stack (s : State) (k : KeyId) (b : Bool) : (s.setKey k b).stack = s.stack := rfl
@[simp] theorem State.setKey_sp (s : State) (k : KeyId) (b : Bool) : (s.setKey k b).sp = s.sp := rfl
@[simp] theorem State.setKey_mem (s : State) (k : KeyId) (b : Bool) : (s.setKey k b).mem = s.mem := rfl
@[simp] theorem State.setKey_fb (s : State) (k : KeyId) (b : Bool) : (s.setKey k b).fb = s.fb := rfl
@[simp] theorem State.setKey_keys (s : State) (k : KeyId) (b : Bool) : (s.setKey k b).keys = s.keys.set k.val b k.isLt := rfl
@[simp] theorem State.setKey_dt (s : State) (k : KeyId) (b : Bool) : (s.setKey k b).dt = s.dt := rfl
@[simp] theorem State.setKey_st (s : State) (k : KeyId) (b : Bool) : (s.setKey k b).st = s.st := rfl
@[simp] theorem State.setKey_phase (s : State) (k : KeyId) (b : Bool) : (s.setKey k b).phase = s.phase := rfl
@[simp] theorem State.setKey_awaitX (s : State) (k : KeyId) (b : Bool) : (s.setKey k b).awaitX = s.awaitX := rfl
@[simp] theorem State.setKey_fault (s : State) (k : KeyId) (b : Bool) : (s.setKey k b).fault = s.fault := rfl
@[simp] theorem State.setKey_tValid (s : State) (k : KeyId) (b : Bool) : (s.setKey k b).tValid = s.tValid := rfl
@[simp] theorem State.setKey_tLast (s : State) (k : KeyId) (b : Bool) : (s.setKey k b).tLast = s.tLast := rfl
@[simp] theorem State.setKey_tRem3 (s : State) (k : KeyId) (b : Bool) : (s.setKey k b).tRem3 = s.tRem3 := rfl
@[simp] theorem State.setKey_draws (s : State) (k : KeyId) (b : Bool) : (s.setKey k b).draws = s.draws := rfl

/-! ### `baseline` -/

@[simp] theorem State.baseline_V (s : State) (t : Nat) : (s.baseline t).V = s.V := rfl
@[simp] theorem State.baseline_I (s : State) (t : Nat) : (s.baseline t).I = s.I := rfl
@[simp] theorem State.baseline_pc (s : State) (t : Nat) : (s.baseline t).pc = s.pc := rfl
@[simp] theorem State.baseline_stack (s : State) (t : Nat) : (s.baseline t).stack = s.stack := rfl
@[simp] theorem State.baseline_sp (s : State) (t : Nat) : (s.baseline t).sp = s.sp := rfl
@[simp] theorem State.baseline_mem (s : State) (t : Nat) : (s.baseline t).mem = s.mem := rfl
@[simp] theorem State.baseline_fb (s : State) (t : Nat) : (s.baseline t).fb = s.fb := rfl
@[simp] theorem State.baseline_keys (s : State) (t : Nat) : (s.baseline t).keys = s.keys := rfl
@[simp] theorem State.baseline_dt (s : State) (t : Nat) : (s.baseline t).dt = s.dt := rfl
@[simp] theorem State.baseline_st (s : State) (t : Nat) : (s.baseline t).st = s.st := rfl
@[simp] theorem State.baseline_phase (s : State) (t : Nat) : (s.baseline t).phase = s.phase := rfl
@[simp] theorem State.baseline_awaitX (s : State) (t : Nat) : (s.baseline t).awaitX = s.awaitX := rfl
@[simp] theorem State.baseline_fault (s : State) (t : Nat) : (s.baseline t).fault = s.fault := rfl
@[simp] theorem State.baseline_tValid (s : State) (t : Nat) : (s.baseline t).tValid = true := rfl
@[simp] theorem State.baseline_tLast (s : State) (t : Nat) : (s.baseline t).tLast = t := rfl
@[simp] theorem State.baseline_tRem3 (s : State) (t : Nat) : (s.baseline t).tRem3 = 0 := rfl
@[simp] theorem State.baseline_draws (s : State) (t : Nat) : (s.baseline t).draws = s.draws := rfl

/-! ### `decayed` -/

@[simp] theorem State.decayed_V (s : State) (t : Nat) : (s.decayed t).V = s.V := rfl
@[simp] theorem State.decayed_I (s : State) (t : Nat) : (s.decayed t).I = s.I := rfl
@[simp] theorem State.decayed_pc (s : State) (t : Nat) : (s.decayed t).pc = s.pc := rfl
@[simp] theorem State.decayed_stack (s : State) (t : Nat) : (s.decayed t).stack = s.stack := rfl
@[simp] theorem State.decayed_sp (s : State) (t : Nat) : (s.decayed t).sp = s.sp := rfl
@[simp] theorem State.decayed_mem (s : State) (t : Nat) : (s.decayed t).mem = s.mem := rfl
@[simp] theorem State.decayed_fb (s : State) (t : Nat) : (s.decayed t).fb = s.fb := rfl
@[simp] theorem State.decayed_keys (s : State) (t : Nat) : (s.decayed t).keys = s.keys := rfl
@[simp] theorem State.decayed_dt (s : State) (t : Nat) : (s.decayed t).dt = decayTimer s.dt (s.framesAt t) := rfl
@[simp] theorem State.decayed_st (s : State) (t : Nat) : (s.decayed t).st = decayTimer s.st (s.framesAt t) := rfl
@[simp] theorem State.decayed_phase (s : State) (t : Nat) : (s.decayed t).phase = s.phase := rfl
@[simp] theorem State.decayed_awaitX (s : State) (t : Nat) : (s.decayed t).awaitX = s.awaitX := rfl
@[simp] theorem State.decayed_fault (s : State) (t : Nat) : (s.decayed t).fault = s.fault := rfl
@[simp] theorem State.decayed_tValid (s : State) (t : Nat) : (s.decayed t).tValid = s.tValid := rfl
@[simp] theorem State.decayed_tLast (s : State) (t : Nat) : (s.decayed t).tLast = t := rfl
@[simp] theorem State.decayed_draws (s : State) (t : Nat) : (s.decayed t).draws = s.draws := rfl
@[simp] theorem State.decayed_tRem3_val (s : State) (t : Nat) :
    (s.decayed t).tRem3.val = s.elapsedThirds t % Config.frameThirds := rfl

/-! ### Reads of a register after a register write -/

@[simp] theorem State.reg_setReg_same (s : State) (x : RegIdx) (b : Byte) : (s.setReg x b).reg x = b := by
  simp [State.reg]

theorem State.reg_setReg_other (s : State) (x y : RegIdx) (b : Byte) (h : y ≠ x) : (s.setReg x b).reg y = s.reg y := by
  have h' : x.val ≠ y.val := fun e => h (Fin.ext e.symm)
  simp [State.reg, h']

@[simp] theorem State.reg_setMem (s : State) (m : Memory) (y : RegIdx) : (s.setMem m).reg y = s.reg y := rfl
@[simp] theorem State.reg_raise (s : State) (k : FaultKind) (y : RegIdx) : (s.raise k).reg y = s.reg y := rfl
@[simp] theorem State.reg_setPc (s : State) (a : Word) (y : RegIdx) : (s.setPc a).reg y = s.reg y := rfl
@[simp] theorem State.reg_setFb (s : State) (fb : Framebuffer) (y : RegIdx) : (s.setFb fb).reg y = s.reg y := rfl
@[simp] theorem State.reg_setI (s : State) (a : Word) (y : RegIdx) : (s.setI a).reg y = s.reg y := rfl
@[simp] theorem State.reg_setDt (s : State) (b : Byte) (y : RegIdx) : (s.setDt b).reg y = s.reg y := rfl
@[simp] theorem State.reg_setSt (s : State) (b : Byte) (y : RegIdx) : (s.setSt b).reg y = s.reg y := rfl
@[simp] theorem State.reg_countDraw (s : State) (y : RegIdx) : (s.countDraw).reg y = s.reg y := rfl
@[simp] theorem State.reg_awaitKeyInto (s : State) (x : RegIdx) (y : RegIdx) : (s.awaitKeyInto x).reg y = s.reg y := rfl
@[simp] theorem State.reg_loaded (s : State) (image : List Byte) (y : RegIdx) : (s.loaded image).reg y = s.reg y := rfl
@[simp] theorem State.reg_setKey (s : State) (k : KeyId) (b : Bool) (y : RegIdx) : (s.setKey k b).reg y = s.reg y := rfl
@[simp] theorem State.reg_baseline (s : State) (t : Nat) (y : RegIdx) : (s.baseline t).reg y = s.reg y := rfl

/-! ### Reset -/

theorem reset_reg (x : RegIdx) : State.reset.reg x = 0 := by
  fin_cases x <;> rfl

end Sys2Proof.Machine
end

