-- ==== Sys2Proof/Laws/Ops.lean ====
section
/-! SUPPORT. One lemma for each shared operation that says once everything it can do; later proofs cite these and do not
unfold the operations. -/

namespace Sys2Proof.Machine

/-! ### The write of the pc (40_step_cycle.md rules R83 to R86) -/

/-- A legal pc is stored whole. -/
theorem toNat_ofNat_of_inRange {a : Nat} (h : InRange a) : (BitVec.ofNat 16 a).toNat = a := by
  have h2 : a < 0xFFF := h.2
  rw [BitVec.toNat_ofNat]
  exact Nat.mod_eq_of_lt (by omega)

/-- `finish` on a legal target writes the pc and nothing else. -/
theorem finish_of_inRange {a : Nat} {s : State} (h : InRange a) : finish a s = .next (s.setPc (BitVec.ofNat 16 a)) :=
  if_pos h

/-- `finish` on any other target halts the machine with `ControlFlowFault` and leaves the pc. -/
theorem finish_of_not_inRange {a : Nat} {s : State} (h : ¬InRange a) : finish a s = .next (s.raise .controlFlowFault) :=
  if_neg h

/-- Everything `finish` can do. -/
theorem finish_cases {a : Nat} {s t : State} (h : finish a s = .next t) :
    (InRange a ∧ t = s.setPc (BitVec.ofNat 16 a)) ∨ (¬InRange a ∧ t = s.raise .controlFlowFault) := by
  by_cases ha : InRange a
  · rw [finish_of_inRange ha] at h
    exact .inl ⟨ha, (Host.Outcome.next.inj h).symm⟩
  · rw [finish_of_not_inRange ha] at h
    exact .inr ⟨ha, (Host.Outcome.next.inj h).symm⟩

/-- `finish` always answers a next state. -/
theorem finish_isNext (a : Nat) (s : State) : ∃ t, finish a s = .next t := by
  by_cases ha : InRange a
  · exact ⟨_, finish_of_inRange ha⟩
  · exact ⟨_, finish_of_not_inRange ha⟩

/-- Everything the sequential advance can do. -/
theorem advance_cases {s t : State} (h : advance s = .next t) :
    (InRange (s.pc.toNat + 2) ∧ t = s.setPc (BitVec.ofNat 16 (s.pc.toNat + 2))) ∨
      (¬InRange (s.pc.toNat + 2) ∧ t = s.raise .controlFlowFault) :=
  finish_cases h

/-- Everything a skip can do. -/
theorem skipIf_cases {c : Bool} {s t : State} (h : skipIf c s = .next t) :
    (InRange (s.pc.toNat + if c then 4 else 2) ∧ t = s.setPc (BitVec.ofNat 16 (s.pc.toNat + if c then 4 else 2))) ∨
      (¬InRange (s.pc.toNat + if c then 4 else 2) ∧ t = s.raise .controlFlowFault) :=
  finish_cases h

/-- `raise` inside an operation answers the halted state (R202). -/
theorem raiseFault_eq (k : FaultKind) (s : State) : raiseFault k s = .next (s.raise k) := rfl

/-- A sum with the pc, as a word: the sequential and the skip target. -/
theorem ofNat_pc_add (pc : Word) (d : Nat) : BitVec.ofNat 16 (pc.toNat + d) = pc + BitVec.ofNat 16 d := by
  apply BitVec.eq_of_toNat_eq
  simp [BitVec.toNat_add]

/-! ### The call stack (R15, R101, R104) -/

/-- A push succeeds exactly below capacity. -/
theorem State.push_of_lt {s : State} {v : Word} (h : s.sp.val < 16) :
    s.push v = some { s with stack := s.stack.set s.sp.val v h, sp := ⟨s.sp.val + 1, Nat.succ_lt_succ h⟩ } :=
  dif_pos h

/-- A push on a full stack fails. -/
theorem State.push_of_full {s : State} {v : Word} (h : s.sp.val = 16) : s.push v = none :=
  dif_neg (by simp [h])

/-- A pop of a stack that holds a value. -/
theorem State.pop_of_pos {s : State} (h : 0 < s.sp.val) :
    s.pop = some (s.stack[s.sp.val - 1]'(by omega), { s with sp := ⟨s.sp.val - 1, by omega⟩ }) :=
  dif_pos h

/-- A pop of an empty stack fails. -/
theorem State.pop_of_empty {s : State} (h : s.sp.val = 0) : s.pop = none :=
  dif_neg (by simp [h])

/-! ### Fetch (R81) -/

/-- A fetch succeeds exactly when both bytes exist. -/
theorem State.fetchWord_eq_some {s : State} {w : Word} :
    s.fetchWord = some w ↔
      s.pc.toNat + 1 ≤ Config.memTop ∧ w = wordOfBytes (s.mem.byteAt s.pc.toNat) (s.mem.byteAt (s.pc.toNat + 1)) := by
  unfold State.fetchWord Memory.read
  by_cases h : s.pc.toNat + 1 ≤ Config.memTop
  · have h0 : s.pc.toNat ≤ Config.memTop := by omega
    simp only [h0, h, if_true, Option.some.injEq, true_and, eq_comm]
  · simp only [h, if_false, false_and, iff_false]
    split <;> simp_all

/-- A fetch fails exactly when its second byte does not exist. -/
theorem State.fetchWord_eq_none {s : State} : s.fetchWord = none ↔ Config.memTop < s.pc.toNat + 1 := by
  constructor
  · intro h
    by_contra hle
    have := State.fetchWord_eq_some.mpr ⟨Nat.le_of_not_lt hle, rfl⟩
    simp [h] at this
  · intro h
    cases hw : s.fetchWord with
    | none => rfl
    | some w => exact absurd (State.fetchWord_eq_some.mp hw).1 (by omega)

/-! ### The framebuffer (R150) -/

/-- A flip changes one pixel and no other. -/
theorem Framebuffer.pixel_flip (fb : Framebuffer) (c c' : Fin 64) (r r' : Fin 32) :
    Framebuffer.pixel (Framebuffer.flip fb c r) c' r' =
      (if c' = c ∧ r' = r then !Framebuffer.pixel fb c r else Framebuffer.pixel fb c' r') := by
  unfold Framebuffer.pixel Framebuffer.flip Framebuffer.pixel
  by_cases hc : c' = c
  · subst hc
    by_cases hr : r' = r
    · subst hr
      simp
    · have : r.val ≠ r'.val := fun e => hr (Fin.ext e.symm)
      simp [hr, this]
  · have : c.val ≠ c'.val := fun e => hc (Fin.ext e.symm)
    simp [hc, this]

/-- After a clear every pixel is unlit. -/
@[simp] theorem Framebuffer.pixel_clear (c : Fin 64) (r : Fin 32) : Framebuffer.pixel Framebuffer.clear c r = false := by
  simp [Framebuffer.pixel, Framebuffer.clear]

/-- Framebuffers with the same pixels are the same. -/
theorem Framebuffer.ext_pixel {fb fb' : Framebuffer} (h : ∀ c r, Framebuffer.pixel fb c r = Framebuffer.pixel fb' c r) :
    fb = fb' := by
  apply Vector.ext
  intro c hc
  apply Vector.ext
  intro r hr
  exact h ⟨c, hc⟩ ⟨r, hr⟩

/-! ### The frame of a step (R80) -/

/-- Everything the Step operation can do around an instruction's meaning. -/
theorem cycleWith_cases (run : Instr → State → Host.Outcome State Fault Refusal) (s : State) :
    (s.phase ≠ .running ∧ cycleWith run s = .next s) ∨
      (s.phase = .running ∧ s.fetchWord = none ∧ cycleWith run s = .next (s.raise .memoryFault)) ∨
      (s.phase = .running ∧ ∃ w, s.fetchWord = some w ∧ cycleWith run s = run (decodeWord w) s) := by
  cases hp : s.phase with
  | running =>
    cases hw : s.fetchWord with
    | none => exact .inr (.inl ⟨rfl, rfl, by simp [cycleWith, hp, fetchAndRun, hw, raiseFault]⟩)
    | some w => exact .inr (.inr ⟨rfl, w, rfl, by simp [cycleWith, hp, fetchAndRun, hw]⟩)
  | fresh => exact .inl ⟨by simp, by simp [cycleWith, hp]⟩
  | awaitKey => exact .inl ⟨by simp, by simp [cycleWith, hp]⟩
  | halted => exact .inl ⟨by simp, by simp [cycleWith, hp]⟩

end Sys2Proof.Machine
end

