-- ==== Sys2Proof/Laws/Operands.lean ====
section
/-! SUPPORT. The operand forms and the flag computations as bit-vector arithmetic, and what a block load writes. -/

namespace Sys2Proof.Machine

/-! ### Immediates (R63) -/

theorem addrWord_eq (nnn : Addr12) : addrWord nnn = nnn.setWidth 16 := by
  apply BitVec.eq_of_toNat_eq
  simp [addrWord]

/-! ### Arithmetic (R114, R124 to R128) -/

theorem addByte_eq (a b : Byte) : addByte a b = a + b := by
  apply BitVec.eq_of_toNat_eq
  simp [addByte, BitVec.toNat_add]

theorem subByte_eq (a b : Byte) : subByte a b = a - b := by
  apply BitVec.eq_of_toNat_eq
  have hb : b.toNat < 256 := b.isLt
  simp only [subByte, BitVec.toNat_sub, BitVec.toNat_ofNat]
  congr 1
  omega

theorem shiftRight_eq (a : Byte) : shiftRight a = a >>> 1 := by
  apply BitVec.eq_of_toNat_eq
  have ha : a.toNat < 256 := a.isLt
  simp only [shiftRight, BitVec.toNat_ofNat, BitVec.toNat_ushiftRight, Nat.shiftRight_one]
  exact Nat.mod_eq_of_lt (by omega)

theorem shiftLeft_eq (a : Byte) : shiftLeft a = a <<< 1 := by
  apply BitVec.eq_of_toNat_eq
  simp [shiftLeft, BitVec.toNat_shiftLeft, Nat.shiftLeft_eq]

/-! ### Flags (R11) -/

/-- A flag is 0 or 1. -/
theorem flagByte_zero_or_one (f : Bool) : flagByte f = 0 ∨ flagByte f = 1 := by
  cases f <;> simp [flagByte]

/-- After a flag write `VF` is the flag, whatever register the result went to (R119). -/
@[simp] theorem State.reg_vf_setResultFlag (s : State) (x : RegIdx) (b : Byte) (f : Bool) :
    (s.setResultFlag x b f).reg vf = flagByte f := by
  simp [State.setResultFlag, State.setFlag]

/-! ### Register blocks (R177, R178) -/

theorem State.regBlock_length (s : State) (x : RegIdx) : (s.regBlock x).length = x.val + 1 := by
  have hx := x.isLt
  simp [State.regBlock]

theorem State.regBlock_getElem (s : State) (x : RegIdx) (k : Nat) (hk : k < (s.regBlock x).length) :
    (s.regBlock x)[k] = s.V[k]'(by rw [State.regBlock_length] at hk; omega) := by
  simp [State.regBlock]

/-- What a block write leaves in each register. -/
theorem setBlock_getElem (V : RegFile) (k : Nat) (bs : List Byte) (r : Nat) (hr : r < 16) :
    (setBlock V k bs)[r] = if h : k ≤ r ∧ r - k < bs.length then bs[r - k]'h.2 else V[r] := by
  induction bs generalizing V k with
  | nil => simp [setBlock]
  | cons b bs ih =>
    rw [setBlock, ih]
    by_cases hlt : r < k
    · have h1 : ¬(k + 1 ≤ r ∧ r - (k + 1) < bs.length) := by omega
      have h2 : ¬(k ≤ r ∧ r - k < (b :: bs).length) := by omega
      have hne : k ≠ r := by omega
      rw [dif_neg h1, dif_neg h2, Vector.getElem_setIfInBounds hr, if_neg hne]
    · by_cases heq : k = r
      · subst heq
        simp
      · have hle : k + 1 ≤ r := by omega
        have hsub : r - k = r - (k + 1) + 1 := by omega
        by_cases hlen : r - (k + 1) < bs.length
        · rw [dif_pos ⟨hle, hlen⟩, dif_pos ⟨by omega, by simp [hsub, hlen]⟩]
          simp [hsub]
        · rw [dif_neg (by omega), dif_neg (by simp [hsub]; omega), Vector.getElem_setIfInBounds hr, if_neg heq]

end Sys2Proof.Machine
end

