-- ==== Sys2Proof/Laws/Exec.lean ====
section
/-! SUPPORT. Once, for every instruction, what its meaning can do: raise a fault on the state it found, or make its effect and
hand the next pc to `finish`. The invariants and the frames follow from this and unfold no meaning again. -/

namespace Sys2Proof.Machine

/-! ### The meanings that can raise a fault of their own, by whether they do -/

theorem execRet_of_pos {s : State} (h : 0 < s.sp.val) :
    execRet s = finish ((s.stack[s.sp.val - 1]'(by omega)).toNat + 2) { s with sp := ⟨s.sp.val - 1, by omega⟩ } := by
  rw [execRet, State.pop_of_pos h]

theorem execRet_of_empty {s : State} (h : s.sp.val = 0) : execRet s = .next (s.raise .stackUnderflow) := by
  rw [execRet, State.pop_of_empty h]
  rfl

theorem execCall_of_room {s : State} (nnn : Addr12) (h : s.sp.val < 16) :
    execCall nnn s =
      finish nnn.toNat { s with stack := s.stack.set s.sp.val s.pc h, sp := ⟨s.sp.val + 1, Nat.succ_lt_succ h⟩ } := by
  rw [execCall, State.push_of_lt h]
  rfl

theorem execCall_of_full {s : State} (nnn : Addr12) (h : s.sp.val = 16) :
    execCall nnn s = .next (s.raise .stackOverflow) := by
  rw [execCall, State.push_of_full h]
  rfl

theorem execDrw_of_ok {s : State} {x y : RegIdx} {n : Nibble} (h : readRangeOk s.I.toNat n.toNat = true) :
    execDrw x y n s =
      advance ((s.setFb (drawRows (s.reg x).toNat (s.reg y).toNat (s.mem.bytesAt s.I.toNat n.toNat) (s.fb, false)).1).setFlag
        (drawRows (s.reg x).toNat (s.reg y).toNat (s.mem.bytesAt s.I.toNat n.toNat) (s.fb, false)).2) := by
  rw [execDrw, Memory.readBytes_eq_some.mpr ⟨h, rfl⟩]

theorem execDrw_of_bad {s : State} {x y : RegIdx} {n : Nibble} (h : readRangeOk s.I.toNat n.toNat = false) :
    execDrw x y n s = .next (s.raise .memoryFault) := by
  rw [execDrw, Memory.readBytes_eq_none.mpr h]
  rfl

theorem execLdB_of_ok {s : State} {x : RegIdx} (h : writeRangeOk s.I.toNat 3 = true) :
    execLdB x s = advance (s.setMem (s.mem.putBytes s.I.toNat (bcdDigits (s.reg x)))) := by
  rw [execLdB, Memory.writeBytes_eq_some.mpr ⟨h, rfl⟩]

theorem execLdB_of_bad {s : State} {x : RegIdx} (h : writeRangeOk s.I.toNat 3 = false) :
    execLdB x s = .next (s.raise .memoryFault) := by
  rw [execLdB, Memory.writeBytes_eq_none.mpr h]
  rfl

theorem execStoreRegs_of_ok {s : State} {x : RegIdx} (h : writeRangeOk s.I.toNat (x.val + 1) = true) :
    execStoreRegs x s = advance (s.setMem (s.mem.putBytes s.I.toNat (s.regBlock x))) := by
  rw [execStoreRegs, Memory.writeBytes_eq_some.mpr ⟨by rw [State.regBlock_length]; exact h, rfl⟩]

theorem execStoreRegs_of_bad {s : State} {x : RegIdx} (h : writeRangeOk s.I.toNat (x.val + 1) = false) :
    execStoreRegs x s = .next (s.raise .memoryFault) := by
  rw [execStoreRegs, Memory.writeBytes_eq_none.mpr (by rw [State.regBlock_length]; exact h)]
  rfl

theorem execLoadRegs_of_ok {s : State} {x : RegIdx} (h : readRangeOk s.I.toNat (x.val + 1) = true) :
    execLoadRegs x s = advance (s.setRegBlock (s.mem.bytesAt s.I.toNat (x.val + 1))) := by
  rw [execLoadRegs, Memory.readBytes_eq_some.mpr ⟨h, rfl⟩]

theorem execLoadRegs_of_bad {s : State} {x : RegIdx} (h : readRangeOk s.I.toNat (x.val + 1) = false) :
    execLoadRegs x s = .next (s.raise .memoryFault) := by
  rw [execLoadRegs, Memory.readBytes_eq_none.mpr h]
  rfl

/-! ### What any meaning can do -/

/-- What the effect `s'` of an instruction on `s`, before the pc is written, leaves alone and where it writes. -/
structure Effect (i : Instr) (s s' : State) : Prop where
  pc : s'.pc = s.pc
  fault : s'.fault = s.fault
  keys : s'.keys = s.keys
  tValid : s'.tValid = s.tValid
  tLast : s'.tLast = s.tLast
  tRem3 : s'.tRem3 = s.tRem3
  phase : s'.phase = s.phase ∨ ∃ x, i = .ldVxK x ∧ s'.phase = .awaitKey ∧ s'.awaitX = x
  awaitX : (∀ x, i ≠ .ldVxK x) → s'.awaitX = s.awaitX
  dt : (∀ x, i ≠ .ldDTVx x) → s'.dt = s.dt
  st : (∀ x, i ≠ .ldSTVx x) → s'.st = s.st
  index : (∀ nnn, i ≠ .ldI nnn) → (∀ x, i ≠ .addI x) → (∀ x, i ≠ .ldF x) → s'.I = s.I
  fb : i ≠ .cls → (∀ x y n, i ≠ .drw x y n) → s'.fb = s.fb
  draws : (∀ x kk, i ≠ .rnd x kk) → s'.draws = s.draws
  stack : (∀ nnn, i ≠ .call nnn) → s'.stack = s.stack
  sp : (∀ nnn, i ≠ .call nnn) → i ≠ .ret → s'.sp = s.sp
  mem : s'.mem = s.mem ∨ ∃ bs, bs.length = i.storedBytes ∧ writeRangeOk s.I.toNat bs.length = true ∧
    s'.mem = s.mem.putBytes s.I.toNat bs
  regs : ∀ r, i.writesReg r = false → s'.reg r = s.reg r
  flag : i.writesFlag = true → s'.reg 15 = 0 ∨ s'.reg 15 = 1

/-- The effect of an instruction that changes nothing before the pc. -/
theorem Effect.refl (i : Instr) (s : State) (h : i.writesFlag = false) : Effect i s s where
  pc := rfl
  fault := rfl
  keys := rfl
  tValid := rfl
  tLast := rfl
  tRem3 := rfl
  phase := .inl rfl
  awaitX _ := rfl
  dt _ := rfl
  st _ := rfl
  index _ _ _ := rfl
  fb _ _ := rfl
  draws _ := rfl
  stack _ := rfl
  sp _ _ := rfl
  mem := .inl rfl
  regs _ _ := rfl
  flag hf := by simp [h] at hf

/-- The effect of a plain write of `V[x]`. -/
theorem Effect.setReg (i : Instr) (s : State) (x : RegIdx) (b : Byte) (hw : ∀ r, i.writesReg r = false → r ≠ x)
    (hf : i.writesFlag = false) : Effect i s (s.setReg x b) :=
  { Effect.refl i s hf with
    regs := fun r hr => State.reg_setReg_other s x r b (hw r hr)
    flag := fun h => by simp [hf] at h }

/-- The effect of a flag-setting operation: the result, then the flag (R119). -/
theorem Effect.setResultFlag (i : Instr) (s : State) (x : RegIdx) (b : Byte) (f : Bool)
    (hw : ∀ r, i.writesReg r = false → r ≠ x ∧ r ≠ vf) : Effect i s (s.setResultFlag x b f) where
  pc := rfl
  fault := rfl
  keys := rfl
  tValid := rfl
  tLast := rfl
  tRem3 := rfl
  phase := .inl rfl
  awaitX _ := rfl
  dt _ := rfl
  st _ := rfl
  index _ _ _ := rfl
  fb _ _ := rfl
  draws _ := rfl
  stack _ := rfl
  sp _ _ := rfl
  mem := .inl rfl
  regs r hr := by
    rw [State.setResultFlag, State.setFlag, State.reg_setReg_other _ _ _ _ (hw r hr).2,
      State.reg_setReg_other _ _ _ _ (hw r hr).1]
  flag _ := by
    show (s.setResultFlag x b f).reg vf = 0 ∨ (s.setResultFlag x b f).reg vf = 1
    rw [State.reg_vf_setResultFlag]
    exact flagByte_zero_or_one f

/-- Everything a meaning can do: a fault raised on the state it found, or its effect and then the write of the pc, to
`pc + 2` unless the instruction redirects control. -/
theorem exec_cases (i : Instr) (s : State) :
    (∃ k, k ≠ .none ∧ exec i s = .next (s.raise k)) ∨
      ∃ n s', exec i s = finish n s' ∧ Effect i s s' ∧ (i.redirects = false → n = s.pc.toNat + 2) := by
  cases i
  case cls =>
    exact .inr ⟨_, s.setFb Framebuffer.clear, rfl, { Effect.refl .cls s rfl with fb := fun h => absurd rfl h }, fun _ => rfl⟩
  case ret =>
    by_cases h : 0 < s.sp.val
    · refine .inr ⟨_, _, execRet_of_pos h, ?_, by simp [Instr.redirects]⟩
      exact { Effect.refl .ret s rfl with sp := fun _ h => absurd rfl h, regs := fun _ _ => rfl, flag := by simp [Instr.writesFlag] }
    · exact .inl ⟨_, by simp, execRet_of_empty (by omega)⟩
  case call nnn =>
    by_cases h : s.sp.val < 16
    · refine .inr ⟨_, _, execCall_of_room nnn h, ?_, by simp [Instr.redirects]⟩
      exact { Effect.refl (.call nnn) s rfl with
        stack := fun h => absurd rfl (h nnn), sp := fun h => absurd rfl (h nnn), regs := fun _ _ => rfl,
        flag := by simp [Instr.writesFlag] }
    · exact .inl ⟨_, by simp, execCall_of_full nnn (by omega)⟩
  case drw x y n =>
    cases h : readRangeOk s.I.toNat n.toNat with
    | false => exact .inl ⟨_, by simp, execDrw_of_bad h⟩
    | true =>
      refine .inr ⟨_, _, execDrw_of_ok h, ?_, fun _ => rfl⟩
      exact {
        pc := rfl, fault := rfl, keys := rfl, tValid := rfl, tLast := rfl, tRem3 := rfl, phase := .inl rfl
        awaitX := fun _ => rfl, dt := fun _ => rfl, st := fun _ => rfl, index := fun _ _ _ => rfl
        fb := fun _ h => absurd rfl (h x y n), draws := fun _ => rfl, stack := fun _ => rfl, sp := fun _ _ => rfl
        mem := .inl rfl
        regs := fun r hr => State.reg_setReg_other _ _ _ _ (by simpa [Instr.writesReg] using hr)
        flag := fun _ => by
          show State.reg (State.setReg _ vf _) vf = 0 ∨ State.reg (State.setReg _ vf _) vf = 1
          rw [State.reg_setReg_same]
          exact flagByte_zero_or_one _ }
  case ldB x =>
    cases h : writeRangeOk s.I.toNat 3 with
    | false => exact .inl ⟨_, by simp, execLdB_of_bad h⟩
    | true =>
      exact .inr ⟨_, _, execLdB_of_ok h, { Effect.refl (.ldB x) s rfl with mem := .inr ⟨bcdDigits (s.reg x), rfl, h, rfl⟩ }, fun _ => rfl⟩
  case storeRegs x =>
    cases h : writeRangeOk s.I.toNat (x.val + 1) with
    | false => exact .inl ⟨_, by simp, execStoreRegs_of_bad h⟩
    | true =>
      have hlen := s.regBlock_length x
      exact .inr ⟨_, _, execStoreRegs_of_ok h,
        { Effect.refl (.storeRegs x) s rfl with mem := .inr ⟨_, hlen, by rw [hlen]; exact h, rfl⟩ }, fun _ => rfl⟩
  case loadRegs x =>
    cases h : readRangeOk s.I.toNat (x.val + 1) with
    | false => exact .inl ⟨_, by simp, execLoadRegs_of_bad h⟩
    | true =>
      refine .inr ⟨_, _, execLoadRegs_of_ok h, ?_, fun _ => rfl⟩
      exact { Effect.refl (.loadRegs x) s rfl with
        regs := fun r hr => by
          have hlt : ¬r.val < x.val + 1 := by
            have hle : ¬r ≤ x := by simpa [Instr.writesReg] using hr
            have : x.val < r.val := not_le.mp hle
            omega
          simp [State.reg, setBlock_getElem, hlt]
        flag := by simp [Instr.writesFlag] }
  case ldImm x kk => exact .inr ⟨_, _, rfl, Effect.setReg _ s x _ (by simp [Instr.writesReg]) rfl, fun _ => rfl⟩
  case addImm x kk => exact .inr ⟨_, _, rfl, Effect.setReg _ s x _ (by simp [Instr.writesReg]) rfl, fun _ => rfl⟩
  case ldReg x y => exact .inr ⟨_, _, rfl, Effect.setReg _ s x _ (by simp [Instr.writesReg]) rfl, fun _ => rfl⟩
  case orReg x y => exact .inr ⟨_, _, rfl, Effect.setReg _ s x _ (by simp [Instr.writesReg]) rfl, fun _ => rfl⟩
  case andReg x y => exact .inr ⟨_, _, rfl, Effect.setReg _ s x _ (by simp [Instr.writesReg]) rfl, fun _ => rfl⟩
  case xorReg x y => exact .inr ⟨_, _, rfl, Effect.setReg _ s x _ (by simp [Instr.writesReg]) rfl, fun _ => rfl⟩
  case ldVxDT x => exact .inr ⟨_, _, rfl, Effect.setReg _ s x _ (by simp [Instr.writesReg]) rfl, fun _ => rfl⟩
  case rnd x kk =>
    exact .inr ⟨_, (s.setReg x _).countDraw, rfl,
      { Effect.setReg (.rnd x kk) s x _ (by simp [Instr.writesReg]) rfl with draws := fun h => absurd rfl (h x kk) },
      fun _ => rfl⟩
  case addReg x y => exact .inr ⟨_, _, rfl, Effect.setResultFlag _ s x _ _ (by simp [Instr.writesReg]), fun _ => rfl⟩
  case sub x y => exact .inr ⟨_, _, rfl, Effect.setResultFlag _ s x _ _ (by simp [Instr.writesReg]), fun _ => rfl⟩
  case shr x y => exact .inr ⟨_, _, rfl, Effect.setResultFlag _ s x _ _ (by simp [Instr.writesReg]), fun _ => rfl⟩
  case subn x y => exact .inr ⟨_, _, rfl, Effect.setResultFlag _ s x _ _ (by simp [Instr.writesReg]), fun _ => rfl⟩
  case shl x y => exact .inr ⟨_, _, rfl, Effect.setResultFlag _ s x _ _ (by simp [Instr.writesReg]), fun _ => rfl⟩
  case ldI nnn =>
    exact .inr ⟨_, s.setI _, rfl, { Effect.refl (.ldI nnn) s rfl with index := fun h => absurd rfl (h nnn), mem := .inl rfl }, fun _ => rfl⟩
  case addI x =>
    exact .inr ⟨_, s.setI _, rfl, { Effect.refl (.addI x) s rfl with index := fun _ h => absurd rfl (h x), mem := .inl rfl }, fun _ => rfl⟩
  case ldF x =>
    exact .inr ⟨_, s.setI _, rfl, { Effect.refl (.ldF x) s rfl with index := fun _ _ h => absurd rfl (h x), mem := .inl rfl }, fun _ => rfl⟩
  case ldDTVx x =>
    exact .inr ⟨_, s.setDt _, rfl, { Effect.refl (.ldDTVx x) s rfl with dt := fun h => absurd rfl (h x) }, fun _ => rfl⟩
  case ldSTVx x =>
    exact .inr ⟨_, s.setSt _, rfl, { Effect.refl (.ldSTVx x) s rfl with st := fun h => absurd rfl (h x) }, fun _ => rfl⟩
  case ldVxK x =>
    exact .inr ⟨_, s.awaitKeyInto x, rfl,
      { Effect.refl (.ldVxK x) s rfl with phase := .inr ⟨x, rfl, rfl, rfl⟩, awaitX := fun h => absurd rfl (h x) }, fun _ => rfl⟩
  case sys => exact .inr ⟨_, s, rfl, Effect.refl _ s rfl, fun _ => rfl⟩
  case nop8 => exact .inr ⟨_, s, rfl, Effect.refl _ s rfl, fun _ => rfl⟩
  case nopE => exact .inr ⟨_, s, rfl, Effect.refl _ s rfl, fun _ => rfl⟩
  case nopF => exact .inr ⟨_, s, rfl, Effect.refl _ s rfl, fun _ => rfl⟩
  all_goals exact .inr ⟨_, s, rfl, Effect.refl _ s rfl, by simp [Instr.redirects]⟩

/-- Everything a next state of a meaning can be. -/
theorem exec_next {i : Instr} {s t : State} (e : exec i s = .next t) :
    (∃ k, k ≠ .none ∧ t = s.raise k) ∨
      ∃ n s', exec i s = finish n s' ∧ Effect i s s' ∧ (i.redirects = false → n = s.pc.toNat + 2) ∧
        ((InRange n ∧ t = s'.setPc (BitVec.ofNat 16 n)) ∨ (¬InRange n ∧ t = s'.raise .controlFlowFault)) := by
  rcases exec_cases i s with ⟨k, hk, he⟩ | ⟨n, s', he, heff, hred⟩
  · exact .inl ⟨k, hk, (Host.Outcome.next.inj (he.symm.trans e)).symm⟩
  · exact .inr ⟨n, s', he, heff, hred, finish_cases (he ▸ e)⟩

end Sys2Proof.Machine
end

