-- ==== Sys2Proof/Laws/PerInstr.lean ====
section
/-! SUPPORT. Statements made instruction by instruction: an instruction's word lies in the instruction's family (R64, R72). -/

namespace Sys2Proof.Laws

/-! ### The word formats of R72 keep the family in the top four bits -/

theorem fieldOp_wordXYN (op : Nat) (x y : RegIdx) (n : Nat) (hop : op < 16) (hn : n < 16) :
    fieldOp (wordXYN op x y n) = op := by
  have hx := x.isLt
  have hy := y.isLt
  simp only [fieldOp, wordXYN, BitVec.toNat_ofNat]
  omega

theorem fieldOp_wordXKK (op : Nat) (x : RegIdx) (kk : Nat) (hop : op < 16) (hkk : kk < 256) :
    fieldOp (wordXKK op x kk) = op := by
  have hx := x.isLt
  simp only [fieldOp, wordXKK, BitVec.toNat_ofNat]
  omega

theorem fieldOp_wordNNN (op : Nat) (nnn : Addr12) (hop : op < 16) : fieldOp (wordNNN op nnn) = op := by
  have hn := nnn.isLt
  simp only [fieldOp, wordNNN, BitVec.toNat_ofNat]
  omega

end Sys2Proof.Laws

namespace Sys2Proof.Laws.EncodesInFamily

/-- The family of an instruction (R64). -/
def family : Instr → Nat
  | .cls | .ret | .sys _ => 0
  | .jp _ => 1
  | .call _ => 2
  | .seImm _ _ => 3
  | .sneImm _ _ => 4
  | .seReg _ _ => 5
  | .ldImm _ _ => 6
  | .addImm _ _ => 7
  | .ldReg _ _ | .orReg _ _ | .andReg _ _ | .xorReg _ _ | .addReg _ _ | .sub _ _ | .shr _ _ | .subn _ _ | .shl _ _ | .nop8 _ _ _ => 8
  | .sneReg _ _ => 9
  | .ldI _ => 10
  | .jpV0 _ => 11
  | .rnd _ _ => 12
  | .drw _ _ _ => 13
  | .skp _ | .sknp _ | .nopE _ _ => 14
  | .ldVxDT _ | .ldVxK _ | .ldDTVx _ | .ldSTVx _ | .addI _ | .ldF _ | .ldB _ | .storeRegs _ | .loadRegs _ | .nopF _ _ => 15

/-- The word of the instruction has the instruction's family in its top four bits. -/
def Statement (i : Instr) : Prop := fieldOp (encode i) = family i

theorem cls : Statement .cls := rfl
theorem ret : Statement .ret := rfl
theorem sys (nnn : Addr12) : Statement (.sys nnn) := fieldOp_wordNNN _ nnn (by decide)
theorem jp (nnn : Addr12) : Statement (.jp nnn) := fieldOp_wordNNN _ nnn (by decide)
theorem call (nnn : Addr12) : Statement (.call nnn) := fieldOp_wordNNN _ nnn (by decide)
theorem seImm (x : RegIdx) (kk : Byte) : Statement (.seImm x kk) := fieldOp_wordXKK _ x _ (by decide) kk.isLt
theorem sneImm (x : RegIdx) (kk : Byte) : Statement (.sneImm x kk) := fieldOp_wordXKK _ x _ (by decide) kk.isLt
theorem seReg (x : RegIdx) (y : RegIdx) : Statement (.seReg x y) := fieldOp_wordXYN _ x y _ (by decide) (by decide)
theorem ldImm (x : RegIdx) (kk : Byte) : Statement (.ldImm x kk) := fieldOp_wordXKK _ x _ (by decide) kk.isLt
theorem addImm (x : RegIdx) (kk : Byte) : Statement (.addImm x kk) := fieldOp_wordXKK _ x _ (by decide) kk.isLt
theorem ldReg (x : RegIdx) (y : RegIdx) : Statement (.ldReg x y) := fieldOp_wordXYN _ x y _ (by decide) (by decide)
theorem orReg (x : RegIdx) (y : RegIdx) : Statement (.orReg x y) := fieldOp_wordXYN _ x y _ (by decide) (by decide)
theorem andReg (x : RegIdx) (y : RegIdx) : Statement (.andReg x y) := fieldOp_wordXYN _ x y _ (by decide) (by decide)
theorem xorReg (x : RegIdx) (y : RegIdx) : Statement (.xorReg x y) := fieldOp_wordXYN _ x y _ (by decide) (by decide)
theorem addReg (x : RegIdx) (y : RegIdx) : Statement (.addReg x y) := fieldOp_wordXYN _ x y _ (by decide) (by decide)
theorem sub (x : RegIdx) (y : RegIdx) : Statement (.sub x y) := fieldOp_wordXYN _ x y _ (by decide) (by decide)
theorem shr (x : RegIdx) (y : RegIdx) : Statement (.shr x y) := fieldOp_wordXYN _ x y _ (by decide) (by decide)
theorem subn (x : RegIdx) (y : RegIdx) : Statement (.subn x y) := fieldOp_wordXYN _ x y _ (by decide) (by decide)
theorem shl (x : RegIdx) (y : RegIdx) : Statement (.shl x y) := fieldOp_wordXYN _ x y _ (by decide) (by decide)
theorem nop8 (x : RegIdx) (y : RegIdx) (n : Nibble) : Statement (.nop8 x y n) := fieldOp_wordXYN _ x y _ (by decide) n.isLt
theorem sneReg (x : RegIdx) (y : RegIdx) : Statement (.sneReg x y) := fieldOp_wordXYN _ x y _ (by decide) (by decide)
theorem ldI (nnn : Addr12) : Statement (.ldI nnn) := fieldOp_wordNNN _ nnn (by decide)
theorem jpV0 (nnn : Addr12) : Statement (.jpV0 nnn) := fieldOp_wordNNN _ nnn (by decide)
theorem rnd (x : RegIdx) (kk : Byte) : Statement (.rnd x kk) := fieldOp_wordXKK _ x _ (by decide) kk.isLt
theorem drw (x : RegIdx) (y : RegIdx) (n : Nibble) : Statement (.drw x y n) := fieldOp_wordXYN _ x y _ (by decide) n.isLt
theorem skp (x : RegIdx) : Statement (.skp x) := fieldOp_wordXKK _ x _ (by decide) (by decide)
theorem sknp (x : RegIdx) : Statement (.sknp x) := fieldOp_wordXKK _ x _ (by decide) (by decide)
theorem nopE (x : RegIdx) (kk : Byte) : Statement (.nopE x kk) := fieldOp_wordXKK _ x _ (by decide) kk.isLt
theorem ldVxDT (x : RegIdx) : Statement (.ldVxDT x) := fieldOp_wordXKK _ x _ (by decide) (by decide)
theorem ldVxK (x : RegIdx) : Statement (.ldVxK x) := fieldOp_wordXKK _ x _ (by decide) (by decide)
theorem ldDTVx (x : RegIdx) : Statement (.ldDTVx x) := fieldOp_wordXKK _ x _ (by decide) (by decide)
theorem ldSTVx (x : RegIdx) : Statement (.ldSTVx x) := fieldOp_wordXKK _ x _ (by decide) (by decide)
theorem addI (x : RegIdx) : Statement (.addI x) := fieldOp_wordXKK _ x _ (by decide) (by decide)
theorem ldF (x : RegIdx) : Statement (.ldF x) := fieldOp_wordXKK _ x _ (by decide) (by decide)
theorem ldB (x : RegIdx) : Statement (.ldB x) := fieldOp_wordXKK _ x _ (by decide) (by decide)
theorem storeRegs (x : RegIdx) : Statement (.storeRegs x) := fieldOp_wordXKK _ x _ (by decide) (by decide)
theorem loadRegs (x : RegIdx) : Statement (.loadRegs x) := fieldOp_wordXKK _ x _ (by decide) (by decide)
theorem nopF (x : RegIdx) (kk : Byte) : Statement (.nopF x kk) := fieldOp_wordXKK _ x _ (by decide) kk.isLt

end Sys2Proof.Laws.EncodesInFamily
end

