-- ==== Sys2Proof/Tests/Slice0.lean ====
section
/-! SUPPORT. Tests. Expected values come from the spec: the words from the encodings of 30_encoding.md rule R68, the results
from the vectors of 95_test_vectors.md (each named in its comment). Then, for every statement with hypotheses, a witness that
meets them. -/


namespace Sys2Proof.Tests

set_option Elab.async false

open Sys2Proof.Machine

/-! ### WellFormed refuses an ill-formed term of each check (R66) -/

theorem test_sys_of_cls_is_ill_formed : (Instr.sys 0x0E0#12).wellFormed = false := by decide
theorem test_sys_of_ret_is_ill_formed : (Instr.sys 0x0EE#12).wellFormed = false := by decide
theorem test_nop8_of_subn_is_ill_formed : (Instr.nop8 1 2 7#4).wellFormed = false := by decide
theorem test_nop8_of_shl_is_ill_formed : (Instr.nop8 1 2 0xE#4).wellFormed = false := by decide
theorem test_nopE_of_sknp_is_ill_formed : (Instr.nopE 1 0xA1#8).wellFormed = false := by decide
theorem test_nopF_of_ldB_is_ill_formed : (Instr.nopF 1 0x33#8).wellFormed = false := by decide
theorem test_nop8_is_well_formed : (Instr.nop8 1 2 8#4).wellFormed = true := by decide

/-! ### Decoding, a word for every constructor, bits from R68 -/

theorem test_decode_cls : decodeWord 0b0000000011100000#16 = .cls := by decide
theorem test_decode_ret : decodeWord 0b0000000011101110#16 = .ret := by decide
theorem test_decode_sys : decodeWord 0b0000000011100001#16 = .sys 0x0E1#12 := by decide
theorem test_decode_jp : decodeWord 0b0001101010111100#16 = .jp 0xABC#12 := by decide
theorem test_decode_call : decodeWord 0b0010001100000000#16 = .call 0x300#12 := by decide
theorem test_decode_seImm : decodeWord 0b0011001000110011#16 = .seImm 2 0x33#8 := by decide
theorem test_decode_sneImm : decodeWord 0b0100001000110100#16 = .sneImm 2 0x34#8 := by decide
theorem test_decode_seReg : decodeWord 0b0101000100101111#16 = .seReg 1 2 := by decide
theorem test_decode_ldImm : decodeWord 0b0110101001111111#16 = .ldImm 10 0x7F#8 := by decide
theorem test_decode_addImm : decodeWord 0b0111000000100000#16 = .addImm 0 0x20#8 := by decide
theorem test_decode_ldReg : decodeWord 0b1000000000010000#16 = .ldReg 0 1 := by decide
theorem test_decode_orReg : decodeWord 0b1000000000010001#16 = .orReg 0 1 := by decide
theorem test_decode_andReg : decodeWord 0b1000000000010010#16 = .andReg 0 1 := by decide
theorem test_decode_xorReg : decodeWord 0b1000000000010011#16 = .xorReg 0 1 := by decide
theorem test_decode_addReg : decodeWord 0b1000000100100100#16 = .addReg 1 2 := by decide
theorem test_decode_sub : decodeWord 0b1000000100100101#16 = .sub 1 2 := by decide
theorem test_decode_shr : decodeWord 0b1000001101000110#16 = .shr 3 4 := by decide
theorem test_decode_subn : decodeWord 0b1000000100100111#16 = .subn 1 2 := by decide
theorem test_decode_shl : decodeWord 0b1000001101001110#16 = .shl 3 4 := by decide
theorem test_decode_nop8 : decodeWord 0b1000000100101111#16 = .nop8 1 2 0xF#4 := by decide
theorem test_decode_sneReg : decodeWord 0b1001000100101011#16 = .sneReg 1 2 := by decide
theorem test_decode_ldI : decodeWord 0b1010001011110000#16 = .ldI 0x2F0#12 := by decide
theorem test_decode_jpV0 : decodeWord 0b1011001100000000#16 = .jpV0 0x300#12 := by decide
theorem test_decode_rnd : decodeWord 0b1100001100001111#16 = .rnd 3 0x0F#8 := by decide
theorem test_decode_drw : decodeWord 0b1101000000010010#16 = .drw 0 1 2#4 := by decide
theorem test_decode_skp : decodeWord 0b1110010010011110#16 = .skp 4 := by decide
theorem test_decode_sknp : decodeWord 0b1110010010100001#16 = .sknp 4 := by decide
theorem test_decode_nopE : decodeWord 0b1110000110011111#16 = .nopE 1 0x9F#8 := by decide
theorem test_decode_ldVxDT : decodeWord 0b1111001100000111#16 = .ldVxDT 3 := by decide
theorem test_decode_ldVxK : decodeWord 0b1111010100001010#16 = .ldVxK 5 := by decide
theorem test_decode_ldDTVx : decodeWord 0b1111001100010101#16 = .ldDTVx 3 := by decide
theorem test_decode_ldSTVx : decodeWord 0b1111001100011000#16 = .ldSTVx 3 := by decide
theorem test_decode_addI : decodeWord 0b1111001000011110#16 = .addI 2 := by decide
theorem test_decode_ldF : decodeWord 0b1111001000101001#16 = .ldF 2 := by decide
theorem test_decode_ldB : decodeWord 0b1111000000110011#16 = .ldB 0 := by decide
theorem test_decode_storeRegs : decodeWord 0b1111000101010101#16 = .storeRegs 1 := by decide
theorem test_decode_loadRegs : decodeWord 0b1111001001100101#16 = .loadRegs 2 := by decide
theorem test_decode_nopF : decodeWord 0b1111000111111111#16 = .nopF 1 0xFF#8 := by decide

/-- R72's example: `LD V3, 0x7F` is the bytes `63 7F`. -/
theorem test_encode_example : encodeBytes (.ldImm 3 0x7F#8) = [0x63#8, 0x7F#8] := by decide
theorem test_decode_table_word : decodeTableWord 16 0x637F = some (.ldImm 3 0x7F#8) := by decide
theorem test_decode_one_byte : decode [0x63#8] = .rejected .truncated := by decide

/-! ### One step on a small state -/

/-- A machine after `Reset`, the word at the pc, running. -/
def start (pc : Word) (w : Nat) : State := { State.reset with pc := pc }.withFetchWord 16 w

/-- The state an outcome holds. -/
def after : Host.Outcome State Fault Refusal → Option State
  | .next s => some s
  | .fault _ | .refused _ => none

/-- The state after a step, seen through `f`. -/
def seen {α : Type} (s : State) (f : State → α) : Option α := (after (step s)).map f

/-- The registers set, in the order listed. -/
def withRegs (s : State) : List (RegIdx × Byte) → State
  | [] => s
  | (x, b) :: rest => withRegs (s.setReg x b) rest

/-- Bytes stored from `base` on. -/
def withBytes (s : State) (base : Nat) (bs : List Byte) : State := s.setMem (s.mem.putBytes base bs)

/-- Pixels lit. -/
def withLit (s : State) : List (Fin 64 × Fin 32) → State
  | [] => s
  | (c, r) :: rest => withLit (s.setFb (Framebuffer.flip s.fb c r)) rest

/-- Vector 0.10: the clear stays, then the advance at `FFD` faults. -/
theorem test_cls_at_the_end :
    seen (withLit (start 0xFFD 0x00E0) [(1, 1)]) (fun t => (t.pixel 1 1, t.pc, t.phase, t.fault)) =
      some (false, 0xFFD, .halted, .controlFlowFault) := by decide +kernel
/-- Vector 0.1: CLS does not write `VF`. -/
theorem test_cls_keeps_vf : seen (withRegs (start 0x200 0x00E0) [(15, 7)]) (fun t => (t.reg 15, t.pc)) = some (7, 0x202) := by
  decide +kernel
/-- Vector 0.3. -/
theorem test_ret : seen { start 0x400 0x00EE with sp := 2, stack := (Vector.replicate 16 0x206).set 1 0x300 }
    (fun t => (t.sp.val, t.pc, t.stack[1])) = some (1, 0x302, 0x300) := by decide +kernel
/-- Vector 0.4: the pop stays, then the return address is out of range. -/
theorem test_ret_out_of_range : seen { start 0x400 0x00EE with sp := 1, stack := .replicate 16 0xFFD }
    (fun t => (t.sp.val, t.pc, t.fault)) = some (0, 0x400, .controlFlowFault) := by decide +kernel
/-- Vector 0.8. -/
theorem test_sys : seen (start 0x200 0x00EF) (fun t => (t.pc, t.fault)) = some (0x202, .none) := by decide +kernel
/-- Vector 1.7: an odd target is legal. -/
theorem test_jp_odd : seen (start 0x200 0x1FFD) (fun t => (t.pc, t.phase)) = some (0xFFD, .running) := by decide +kernel
/-- Vector 1.3. -/
theorem test_jp_out_of_range : seen (start 0x200 0x11FF) (fun t => (t.pc, t.fault)) = some (0x200, .controlFlowFault) := by
  decide +kernel
/-- Vector 2.2: the sixteenth call succeeds. -/
theorem test_call : seen { start 0x206 0x2300 with sp := 15 } (fun t => (t.sp.val, t.stack[15], t.pc)) =
    some (16, 0x206, 0x300) := by decide +kernel
/-- Vector 2.5: overflow has priority over the bad target. -/
theorem test_call_full : seen { start 0x206 0x2100 with sp := 16 } (fun t => (t.sp.val, t.pc, t.fault)) =
    some (16, 0x206, .stackOverflow) := by decide +kernel
/-- Vector 3.4: taken, `pc + 4` out of range. -/
theorem test_seImm_out_of_range : seen (start 0xFFB 0x3000) (fun t => (t.pc, t.fault)) = some (0xFFB, .controlFlowFault) := by
  decide +kernel
/-- Vector 3.2. -/
theorem test_seImm_not_taken : seen (withRegs (start 0x200 0x3234) [(2, 0x33)]) State.pc = some 0x202 := by decide +kernel
/-- Vector 4.2. -/
theorem test_sneImm : seen (withRegs (start 0x200 0x4234) [(2, 0x33)]) State.pc = some 0x204 := by decide +kernel
/-- Vector 5.3: the low nibble is ignored. -/
theorem test_seReg : seen (withRegs (start 0x200 0x512F) [(1, 7), (2, 7)]) State.pc = some 0x204 := by decide +kernel
/-- Vector 6.3: the write stays, then the advance faults. -/
theorem test_ldImm : seen (start 0xFFD 0x6A7F) (fun t => (t.reg 10, t.pc, t.fault)) = some (0x7F, 0xFFD, .controlFlowFault) := by
  decide +kernel
/-- Vector 7.1. -/
theorem test_addImm : seen (withRegs (start 0x200 0x7020) [(0, 0xF0), (15, 5)]) (fun t => (t.reg 0, t.reg 15)) =
    some (0x10, 5) := by decide +kernel
/-- Vector 8.0c: the old `VF` is the source. -/
theorem test_ldReg : seen (withRegs (start 0x200 0x81F0) [(15, 0x33)]) (fun t => t.reg 1) = some 0x33 := by decide +kernel
/-- Vector 8.1a. -/
theorem test_orReg : seen (withRegs (start 0x200 0x8011) [(0, 0xF0), (1, 0x0F), (15, 9)]) (fun t => (t.reg 0, t.reg 15)) =
    some (0xFF, 9) := by decide +kernel
/-- Vector 8.2a. -/
theorem test_andReg : seen (withRegs (start 0x200 0x8012) [(0, 0xF3), (1, 0x3C), (15, 9)]) (fun t => (t.reg 0, t.reg 15)) =
    some (0x30, 9) := by decide +kernel
/-- Vector 8.3a. -/
theorem test_xorReg : seen (withRegs (start 0x200 0x8013) [(0, 0xFF), (1, 0x0F), (15, 9)]) (fun t => (t.reg 0, t.reg 15)) =
    some (0xF0, 9) := by decide +kernel
/-- Vector 8.4a. -/
theorem test_addReg : seen (withRegs (start 0x200 0x8124) [(1, 0xC8), (2, 0x64)]) (fun t => (t.reg 1, t.reg 15)) =
    some (0x2C, 1) := by decide +kernel
/-- Vector 8.4g: with `x = 15` the flag replaces the result. -/
theorem test_addReg_into_vf : seen (withRegs (start 0x200 0x8F14) [(15, 0x10), (1, 0x20)]) (fun t => t.reg 15) = some 0 := by
  decide +kernel
/-- Vector 8.5b. -/
theorem test_sub_borrow : seen (withRegs (start 0x200 0x8125) [(1, 0x10), (2, 0x20), (15, 1)]) (fun t => (t.reg 1, t.reg 15)) =
    some (0xF0, 0) := by decide +kernel
/-- Vector 8.5c: equal operands set no flag. -/
theorem test_sub_equal : seen (withRegs (start 0x200 0x8125) [(1, 0x20), (2, 0x20), (15, 1)]) (fun t => (t.reg 1, t.reg 15)) =
    some (0, 0) := by decide +kernel
/-- Vector 8.6d: `y` is not used. -/
theorem test_shr : seen (withRegs (start 0x200 0x8346) [(3, 5), (4, 0xF0)]) (fun t => (t.reg 3, t.reg 15, t.reg 4)) =
    some (2, 1, 0xF0) := by decide +kernel
/-- Vector 8.6f. -/
theorem test_shr_vf : seen (withRegs (start 0x200 0x8FF6) [(15, 2)]) (fun t => t.reg 15) = some 0 := by decide +kernel
/-- Vector 8.7a. -/
theorem test_subn : seen (withRegs (start 0x200 0x8127) [(1, 0x20), (2, 0x50)]) (fun t => (t.reg 1, t.reg 15)) =
    some (0x30, 1) := by decide +kernel
/-- Vector 8.Ed. -/
theorem test_shl : seen (withRegs (start 0x200 0x830E) [(3, 0x40), (15, 1)]) (fun t => (t.reg 3, t.reg 15)) =
    some (0x80, 0) := by decide +kernel
/-- Vector 8.Ea. -/
theorem test_shl_carry : seen (withRegs (start 0x200 0x830E) [(3, 0x81)]) (fun t => (t.reg 3, t.reg 15)) = some (2, 1) := by
  decide +kernel
/-- Vector 8.N. -/
theorem test_nop8 : seen (withRegs (start 0x200 0x812F) [(1, 0x12), (2, 0x34), (15, 7)]) (fun t => (t.reg 1, t.reg 15, t.pc)) =
    some (0x12, 7, 0x202) := by decide +kernel
/-- Vector 9.3. -/
theorem test_sneReg : seen (withRegs (start 0x200 0x912B) [(1, 7), (2, 8)]) State.pc = some 0x204 := by decide +kernel
/-- Vector A.1. -/
theorem test_ldI : seen ((start 0x200 0xA2F0).setI 0xFFFF) State.I = some 0x02F0 := by decide +kernel
/-- Vector B.2: register 0, never `V[x]`. -/
theorem test_jpV0 : seen (withRegs (start 0x200 0xB300) [(0, 4), (3, 0x50)]) State.pc = some 0x304 := by decide +kernel
/-- Vector B.3: the sum is not wrapped. -/
theorem test_jpV0_out_of_range : seen (withRegs (start 0x200 0xBF80) [(0, 0xFF)]) (fun t => (t.pc, t.fault)) =
    some (0x200, .controlFlowFault) := by decide +kernel
/-- Vector C.1: the host's random byte `B7`. -/
theorem test_rnd : (after (stepWith 0xB7 (start 0x200 0xC30F))).map (fun t => (t.reg 3, t.pc, t.draws)) =
    some (7, 0x202, 1) := by decide +kernel
/-- Vector D.1: five pixels, wrapping on both axes. -/
theorem test_drw_wraps :
    seen (withBytes ((withRegs (start 0x200 0xD012) [(0, 62), (1, 31)]).setI 0x300) 0x300 [0xC3, 0x80])
      (fun t => ([t.pixel 62 31, t.pixel 63 31, t.pixel 4 31, t.pixel 5 31, t.pixel 62 0, t.pixel 0 31], t.reg 15)) =
      some ([true, true, true, true, true, false], 0) := by decide +kernel
/-- Vector D.3: `(0,0)` goes from lit to unlit. -/
theorem test_drw_collides :
    seen (withLit (withBytes ((start 0x200 0xD011).setI 0x300) 0x300 [0xF0]) [(0, 0), (5, 0)])
      (fun t => (t.pixel 0 0, t.pixel 1 0, t.pixel 3 0, t.pixel 5 0, t.reg 15)) =
      some (false, true, true, true, 1) := by decide +kernel
/-- Vector E.5: the low nibble names the key. -/
theorem test_skp : seen ((withRegs (start 0x200 0xE49E) [(4, 0x1A)]).setKey 10 true) State.pc = some 0x204 := by decide +kernel
/-- Vector E.4. -/
theorem test_sknp : seen (withRegs (start 0x200 0xE4A1) [(4, 5)]) State.pc = some 0x204 := by decide +kernel
/-- Vector E.7. -/
theorem test_nopE : seen ((start 0x200 0xE19F).setKey 0 true) State.pc = some 0x202 := by decide +kernel
/-- Vector F.07. -/
theorem test_ldVxDT : seen ((start 0x200 0xF307).setDt 42) (fun t => (t.reg 3, t.dt)) = some (0x2A, 42) := by decide +kernel
/-- Vector F.0A. -/
theorem test_ldVxK : seen (start 0x200 0xF50A) (fun t => (t.phase, t.awaitX, t.pc, t.run)) =
    some (.awaitKey, 5, 0x202, true) := by decide +kernel
/-- Vector F.0Ab: halted, not waiting. -/
theorem test_ldVxK_at_the_end : seen (start 0xFFD 0xF50A) (fun t => (t.phase, t.awaitX, t.fault)) =
    some (.halted, 5, .controlFlowFault) := by decide +kernel
/-- Vector F.15. -/
theorem test_ldDTVx : seen (withRegs (start 0x200 0xF315) [(3, 0x3C)]) State.dt = some 60 := by decide +kernel
/-- Vector F.18. -/
theorem test_ldSTVx : seen (withRegs (start 0x200 0xF318) [(3, 5)]) State.st = some 5 := by decide +kernel
/-- Vector F.1Eb: 16-bit wrap. -/
theorem test_addI : seen ((withRegs (start 0x200 0xF21E) [(2, 1), (15, 1)]).setI 0xFFFF) (fun t => (t.I, t.reg 15)) =
    some (0, 1) := by decide +kernel
/-- Vector F.29b: the high nibble is ignored. -/
theorem test_ldF : seen (withRegs (start 0x200 0xF229) [(2, 0x1A)]) State.I = some 0x32 := by decide +kernel
/-- Vector F.33e: the last three bytes of memory. -/
theorem test_ldB : seen ((withRegs (start 0x200 0xF033) [(0, 157)]).setI 0xFFC) (fun t => t.mem.bytesAt 0xFFC 3) =
    some [1, 5, 7] := by decide +kernel
/-- Vector F.33d: no byte is written. -/
theorem test_ldB_font : seen ((withRegs (start 0x202 0xF033) [(0, 157)]).setI 0x1FF) (fun t => (t.fault, t.mem.byteAt 0x200)) =
    some (.memoryFault, 0) := by decide +kernel
/-- Vector F.55a. -/
theorem test_storeRegs : seen ((withRegs (start 0x200 0xF155) [(0, 0x11), (1, 0x22), (2, 0x33)]).setI 0x400)
    (fun t => (t.mem.bytesAt 0x400 3, t.I)) = some ([0x11, 0x22, 0], 0x400) := by decide +kernel
/-- Vector F.65b: the font is readable (glyph 0, the bytes of G1). -/
theorem test_loadRegs_font : seen (start 0x200 0xF465) (fun t => (t.reg 0, t.reg 1, t.reg 4, t.reg 5)) =
    some (0xF0, 0x90, 0xF0, 0) := by decide +kernel
/-- Vector F.65c: no register is written. -/
theorem test_loadRegs_out_of_range : seen ((withRegs (start 0x200 0xF165) [(0, 3), (1, 4)]).setI 0xFFE)
    (fun t => (t.fault, t.reg 0, t.reg 1)) = some (.memoryFault, 3, 4) := by decide +kernel
/-- Vector F.N. -/
theorem test_nopF : seen (start 0x200 0xF075) State.pc = some 0x202 := by decide +kernel
/-- Vector 0.12: nothing is decoded. -/
theorem test_fetch_past_memory : seen { State.reset with pc := 0xFFE, phase := .running } (fun t => (t.fault, t.pc)) =
    some (.memoryFault, 0xFFE) := by decide +kernel
/-- R80, R234: a step before a load does nothing. -/
theorem test_step_fresh : step State.reset = .next State.reset := rfl

/-! ### The host's operations -/

/-- The state after a sequence of operations, seen through `f`. -/
def seenAfter {α : Type} (ops : List HostOp) (s : State) (f : State → α) : Option α := (after (performAll ops s)).map f

/-- Placing a word at the pc of a fresh machine is loading its two bytes. -/
theorem test_place_is_load : loadOp [0x63, 0x7F] State.reset = .next (State.reset.withFetchWord 16 0x637F) := rfl
/-- K.1 to K.6: a held key does not end the wait, a press does. -/
theorem test_key_wait :
    seenAfter [.keyWrite 3 true, .load [0xF5, 0x0A, 0x66, 0x01], .step 0, .step 7, .keyWrite 3 true, .keyWrite 3 false,
      .keyWrite 11 true] State.reset (fun t => (t.reg 5, t.phase, t.pc, t.keys[11])) =
      some (0x0B, .running, 0x202, true) := by decide +kernel
/-- T.1, its first three calls and its total. -/
theorem test_timers : seenAfter [.advanceTimers 0, .advanceTimers 16, .advanceTimers 17]
    { State.reset with dt := 10, st := 3 } (fun t => (t.dt, t.st, t.tRem3.val)) = some (9, 2, 1) := by decide +kernel
/-- EX8: one second is 60 frames. -/
theorem test_one_second : seenAfter [.advanceTimers 0, .advanceTimers 1000] { State.reset with dt := 200 }
    (fun t => (t.dt, t.tRem3.val)) = some (140, 0) := by decide +kernel
/-- T.7: a decreasing timestamp is refused. -/
theorem test_timers_decreasing : seenAfter [.advanceTimers 50, .advanceTimers 40] State.reset State.dt = none := by
  decide +kernel
/-- R233: a second load is refused. -/
theorem test_load_twice : seenAfter [.load [], .load []] State.reset State.phase = none := by decide +kernel
/-- EX3: call and return. -/
theorem test_call_then_return :
    seenAfter [.load [0x22, 0x04, 0, 0, 0, 0xEE], .step 0, .step 0] State.reset (fun t => (t.pc, t.sp.val, t.stack[0])) =
      some (0x202, 0, 0x200) := by decide +kernel

/-! ### Witnesses: what meets the hypotheses of each statement, clause by clause, at the ends of the ranges -/

/-- A running machine at `pc` with the registers `V0 = V1 = 7`, `V2 = 0xFF`. -/
def running (pc : Word) : State := withRegs { State.reset with pc := pc, phase := .running } [(0, 7), (1, 7), (2, 0xFF)]

/-- An outcome that holds a state is that next state. -/
theorem next_of_after {o : Host.Outcome State Fault Refusal} {P : State → Prop} (h : ∃ t, after o = some t ∧ P t) :
    ∃ t, o = .next t ∧ P t := by
  obtain ⟨t, ht, hP⟩ := h
  cases o <;> simp_all [after]

/-- A property of the state an outcome holds, checked by evaluation. -/
theorem next_of_check {o : Host.Outcome State Fault Refusal} {f : State → Bool} (h : (after o).any f = true) :
    ∃ t, o = .next t ∧ f t = true := by
  cases o <;> simp_all [after]

/-- `CanAdvance`, of every statement that names it, and its failure at both sides. -/
theorem witness_CanAdvance : (running 0x200).CanAdvance ∧ (running 0xFFC).CanAdvance ∧ (running 0x1FE).CanAdvance ∧
    ¬(running 0xFFD).CanAdvance ∧ ¬(running 0x1FD).CanAdvance := by decide +kernel

theorem witness_DecodeInvertsEncode : (Instr.ldImm 15 0xFF#8).wellFormed = true ∧ (Instr.sys 0x0E1#12).wellFormed = true ∧
    (Instr.nop8 15 0 0xF#4).wellFormed = true ∧ (Instr.nopE 0 0xFF#8).wellFormed = true ∧
    (Instr.nopF 0 0#8).wellFormed = true := by decide

/-- Not running; running where no word can be fetched; running where the last word can. -/
theorem witness_StepGatesFetchesAndExecutes : State.reset.phase ≠ .running ∧
    ((running 0xFFE).phase = .running ∧ (running 0xFFE).fetchWord = none) ∧
    ((running 0xFFD).phase = .running ∧ (running 0xFFD).fetchWord = some 0) := by decide +kernel

theorem witness_StepRunsTheDecodedInstruction : (start 0xFFD 0x6A7F).phase = .running ∧
    (start 0xFFD 0x6A7F).mem.read (start 0xFFD 0x6A7F).pc.toNat = some 0x6A ∧
    (start 0xFFD 0x6A7F).mem.read ((start 0xFFD 0x6A7F).pc.toNat + 1) = some 0x7F ∧
    decode [0x6A#8, 0x7F#8] = .instr (.ldImm 10 0x7F#8) [] := by decide +kernel

theorem witness_FetchIsBigEndian : (running 0xFFD).pc.toNat + 1 ≤ 0xFFE := by decide +kernel

theorem witness_PlacedWordIsWhatTheStepRuns : (running 0xFFD).mem.wf = true ∧ (running 0xFFD).pc.toNat + 1 ≤ 0xFFE := by
  decide +kernel

/-- Both jumps: in range at both ends, out of range at both ends. -/
theorem witness_JumpsSetPcOrFault : InRange (0x200#12).toNat ∧ InRange (0xFFE#12).toNat ∧ (0x1FF#12).toNat < 0x200 ∧
    (0xFFF#12).toNat = 0xFFF ∧ InRange (((running 0x200).reg 0).toNat + (0x1F9#12).toNat) ∧
    InRange (((running 0x200).reg 0).toNat + (0xFF7#12).toNat) ∧ ((running 0x200).reg 0).toNat + (0x1F8#12).toNat < 0x200 ∧
    0xFFF ≤ ((running 0x200).reg 0).toNat + (0xFF8#12).toNat := by decide +kernel

theorem witness_CallPushesItsOwnAddress : { running 0x200 with sp := 15 }.sp.val < 16 ∧ InRange (0xFFE#12).toNat := by decide

/-- A stack whose first and last slots hold the largest address a return can resume after. -/
def returning (sp : Fin 17) (saved : Word) : State := { running 0x200 with sp := sp, stack := .replicate 16 saved }

theorem witness_ReturnResumesAfterTheSavedAddress :
    (0 < (returning 16 0xFFC).sp.val ∧ InRange ((returning 16 0xFFC).stack[15].toNat + 2)) ∧
    (0 < (returning 1 0x1FE).sp.val ∧ InRange ((returning 1 0x1FE).stack[0].toNat + 2)) := by decide +kernel

/-- Full; room and a bad target at either side; empty; a saved value that leads out of range at either side. -/
theorem witness_CallAndReturnFaults : (returning 16 0x200).sp.val = 16 ∧
    ((returning 15 0x200).sp.val < 16 ∧ ¬InRange (0x1FF#12).toNat ∧ ¬InRange (0xFFF#12).toNat) ∧
    (returning 0 0x200).sp.val = 0 ∧
    (0 < (returning 1 0xFFD).sp.val ∧ ¬InRange ((returning 1 0xFFD).stack[0].toNat + 2)) ∧
    ¬InRange ((returning 16 0x1FD).stack[15].toNat + 2) := by decide +kernel

theorem witness_ReturnAfterCallResumesAfterTheCall :
    (running 0xFFC).sp.val < 16 ∧ InRange (0x300#12).toNat ∧ (running 0xFFC).CanAdvance ∧
    ∃ t, exec (.call 0x300#12) (running 0xFFC) = .next t ∧ (t.phase == .running) = true :=
  ⟨by decide, by decide, by decide +kernel, next_of_check (by decide +kernel)⟩

/-- Each skip taken at the last address it can be taken from and not taken at the last address it can be passed at. -/
theorem witness_SkipsGoFourOrTwoBytesOn : InRange ((running 0xFFA).pc.toNat + 4) ∧ InRange ((running 0xFFC).pc.toNat + 2) ∧
    [Instr.seImm 0 7, .sneImm 0 8, .seReg 0 1, .sneReg 0 2, .sknp 0].all
      (fun i => i.skipCondition (running 0xFFA) == some true) = true ∧
    [Instr.seImm 0 8, .sneImm 0 7, .seReg 0 2, .sneReg 0 1, .skp 0].all
      (fun i => i.skipCondition (running 0xFFC) == some false) = true ∧
    (Instr.skp 0).skipCondition ((running 0xFFA).setKey 7 true) = some true ∧
    (Instr.sknp 0).skipCondition ((running 0xFFC).setKey 7 true) = some false := by decide +kernel

theorem witness_SkipsOutOfRangeFault :
    ((Instr.seImm 0 7).skipCondition (running 0xFFB) = some true ∧ ¬InRange ((running 0xFFB).pc.toNat + 4)) ∧
    ((Instr.seImm 0 8).skipCondition (running 0xFFD) = some false ∧ ¬InRange ((running 0xFFD).pc.toNat + 2)) := by
  decide +kernel

/-- No row at any `I`; fifteen rows and one row that end on the last byte of memory. -/
theorem witness_DrawXorsTheSpriteAndReportsCollision : (running 0xFFC).CanAdvance ∧
    ((0 : Nibble) = 0 ∧ ((running 0xFFC).setI 0xFFFF).I = 0xFFFF) ∧
    ((running 0xFFC).setI 0xFF0).I.toNat + (15#4).toNat - 1 ≤ 0xFFE ∧
    ((running 0xFFC).setI 0xFFE).I.toNat + (1#4).toNat - 1 ≤ 0xFFE := by decide +kernel

/-- Drawing glyph 0 twice at once: the second draw starts where the first ended. -/
theorem witness_DrawingTwiceRestoresThePixels : (running 0x200).CanAdvance ∧
    (running 0x200).I.toNat + (5#4).toNat - 1 ≤ 0xFFE ∧
    ∃ t, exec (.drw 0 1 5#4) (running 0x200) = .next t ∧
      (t.pixel 7 7 && t.I == (running 0x200).I && t.mem == (running 0x200).mem && t.reg 0 == 7 && t.reg 1 == 7 &&
        decide t.CanAdvance) = true :=
  ⟨by decide +kernel, by decide +kernel, next_of_check (by decide +kernel)⟩

/-- The first and the last address the three digits fit at. -/
theorem witness_BcdStoresThreeDigits : (running 0xFFC).CanAdvance ∧ (running 0xFFC).mem.wf = true ∧
    (0x200 ≤ ((running 0xFFC).setI 0x200).I.toNat ∧ ((running 0xFFC).setI 0x200).I.toNat + 2 ≤ 0xFFE) ∧
    (0x200 ≤ ((running 0xFFC).setI 0xFFC).I.toNat ∧ ((running 0xFFC).setI 0xFFC).I.toNat + 2 ≤ 0xFFE) := by decide +kernel

/-- All sixteen registers at the last address they fit at, and one at the very last byte. -/
theorem witness_StoreRegistersWritesTheBlock : (running 0xFFC).CanAdvance ∧ (running 0xFFC).mem.wf = true ∧
    (0x200 ≤ ((running 0xFFC).setI 0xFEF).I.toNat ∧ ((running 0xFFC).setI 0xFEF).I.toNat + (15 : RegIdx).val ≤ 0xFFE) ∧
    ((running 0xFFC).setI 0xFFE).I.toNat + (0 : RegIdx).val ≤ 0xFFE := by decide +kernel

/-- The font's first byte, and the last bytes of memory. -/
theorem witness_LoadRegistersReadsTheBlock : (running 0xFFC).CanAdvance ∧
    (running 0xFFC).I.toNat + (15 : RegIdx).val ≤ 0xFFE ∧
    ((running 0xFFC).setI 0xFEF).I.toNat + (15 : RegIdx).val ≤ 0xFFE := by decide +kernel

theorem witness_LoadRegistersInvertsStoreRegisters : (running 0x200).CanAdvance ∧ (running 0x200).mem.wf = true ∧
    0x200 ≤ ((running 0x200).setI 0x300).I.toNat ∧ ((running 0x200).setI 0x300).I.toNat + (2 : RegIdx).val ≤ 0xFFE ∧
    ∃ t, exec (.storeRegs 2) ((running 0x200).setI 0x300) = .next t ∧ (t.I == 0x300 && decide t.CanAdvance) = true :=
  ⟨by decide +kernel, by decide +kernel, by decide +kernel, by decide +kernel, next_of_check (by decide +kernel)⟩

/-- The store at `0x200` overwrites the words at `0x202`: `V2` and `V3` are fetched there. -/
theorem witness_StoredRegistersAreFetchedNext : (2 : RegIdx).val + 1 ≤ (3 : RegIdx).val ∧
    0x200 ≤ ((running 0x200).setI 0x200).I.toNat ∧ ((running 0x200).setI 0x200).I.toNat + (3 : RegIdx).val ≤ 0xFFE ∧
    ∃ t, exec (.storeRegs 3) ((running 0x200).setI 0x200) = .next t ∧ (t.pc.toNat == 0x200 + (2 : RegIdx).val) = true :=
  ⟨by decide, by decide +kernel, by decide +kernel, next_of_check (by decide +kernel)⟩

/-- One byte past the end for each form, and the font region for the stores. -/
theorem witness_MemoryAccessOutOfRangeFaults :
    (0 < (1#4).toNat ∧ 0xFFE < ((running 0x200).setI 0xFFF).I.toNat + (1#4).toNat - 1) ∧
    ((running 0x200).setI 0x1FF).I.toNat < 0x200 ∧ 0xFFE < ((running 0x200).setI 0xFFD).I.toNat + 2 ∧
    0xFFE < ((running 0x200).setI 0xFF0).I.toNat + (15 : RegIdx).val ∧
    ((running 0xFFE).phase = .running ∧ (running 0xFFE).pc = 0xFFE#16) := by decide +kernel

/-- At `0xFFD`, one instruction that only loses its advance and one that faults by itself. -/
theorem witness_AdvanceOutOfRangeFaultsAfterTheEffects : (Instr.ldImm 1 2).redirects = false ∧
    (Instr.ldB 0).redirects = false ∧ ¬(running 0xFFD).CanAdvance ∧ InRange ((0x200#16).toNat + 2) ∧
    (∃ t, exec (.ldImm 1 2) { running 0xFFD with pc := 0x200 } = .next t ∧ (t.pc == 0x202) = true) ∧
    ∃ t, exec (.ldB 0) { running 0xFFD with pc := 0x200 } = .next t ∧ (t.pc == 0x200) = true :=
  ⟨by decide, by decide, by decide +kernel, by decide, next_of_check (by decide +kernel), next_of_check (by decide +kernel)⟩

theorem witness_HaltKeepsTheFaultingPc : (start 0x200 0x11FF).phase = .running ∧
    ∃ t, step (start 0x200 0x11FF) = .next t ∧ (t.phase == .halted) = true :=
  ⟨by decide +kernel, next_of_check (by decide +kernel)⟩

theorem witness_HaltedUntilReset : (State.reset.raise .loadFault).phase = .halted ∧
    HostOp.reset ∉ [HostOp.step 0, .keyWrite 1 true, .advanceTimers 5] ∧
    ∃ t, performAll [.step 0, .keyWrite 1 true, .advanceTimers 5] (State.reset.raise .loadFault) = .next t ∧
      t.tValid = true :=
  ⟨by decide, by decide, next_of_check (by decide +kernel)⟩

/-- An instruction and a register it does not name, for `OnlyDestinationRegistersChange`; a next state for every frame. -/
theorem witness_OnlyDestinationRegistersChange : (Instr.addReg 1 2).writesReg 3 = false ∧
    ∃ t, exec (.addReg 1 2) (running 0x200) = .next t ∧ (t.reg 1 == 6) = true :=
  ⟨by decide, next_of_check (by decide +kernel)⟩

/-- A carry, no carry, and a sprite outside memory. -/
theorem witness_FlagWritersLeaveZeroOrOne : (Instr.addReg 1 2).writesFlag = true ∧ (Instr.drw 0 0 1#4).writesFlag = true ∧
    (∃ t, exec (.addReg 1 2) (running 0x200) = .next t ∧ (t.reg 15 == 1) = true) ∧
    (∃ t, exec (.addReg 0 1) (running 0x200) = .next t ∧ (t.reg 15 == 0) = true) ∧
    ∃ t, exec (.drw 0 0 1#4) ((running 0x200).setI 0xFFF) = .next t ∧ (t.fault == .memoryFault) = true :=
  ⟨by decide, by decide, next_of_check (by decide +kernel), next_of_check (by decide +kernel), next_of_check (by decide +kernel)⟩

theorem witness_OnlyStoredBytesChange : (running 0x200).mem.wf = true ∧ (Instr.ldI 0).storedBytes = 0 ∧
    (∃ t, exec (.ldI 0) (running 0x200) = .next t ∧ (t.phase == .running) = true) ∧
    ∃ t, exec (.storeRegs 2) ((running 0x200).setI 0x300) = .next t ∧ (t.mem.byteAt 0x302 == 0xFF) = true :=
  ⟨by decide +kernel, by decide, next_of_check (by decide +kernel), next_of_check (by decide +kernel)⟩

theorem witness_OnlyCallAndReturnTouchTheStack : (∀ nnn, Instr.ret ≠ .call nnn) ∧ Instr.cls ≠ .ret ∧
    (∃ t, exec .ret (returning 1 0x200) = .next t ∧ (t.sp == 0) = true) ∧
    ∃ t, exec .cls (running 0x200) = .next t ∧ (t.sp == 0) = true :=
  ⟨by simp, by simp, next_of_check (by decide +kernel), next_of_check (by decide +kernel)⟩

/-- CLS is none of the instructions the other clauses name; a load of `I` is none of those the framebuffer's clause names. -/
theorem witness_OnlyNamedInstructionsWriteTheRest : (∀ nnn, Instr.cls ≠ .ldI nnn) ∧ (∀ x, Instr.cls ≠ .addI x) ∧
    (∀ x, Instr.cls ≠ .ldF x) ∧ (∀ x, Instr.cls ≠ .ldDTVx x) ∧ (∀ x, Instr.cls ≠ .ldSTVx x) ∧
    (∀ x, Instr.cls ≠ .ldVxK x) ∧ (∀ x kk, Instr.cls ≠ .rnd x kk) ∧ (∀ nnn, Instr.ldI nnn ≠ .cls) ∧
    (∀ nnn x y n, Instr.ldI nnn ≠ .drw x y n) ∧
    (∃ t, exec .cls (running 0x200) = .next t ∧ (t.pc == 0x202) = true) ∧
    ∃ t, exec (.ldI 0) (running 0x200) = .next t ∧ (t.pc == 0x202) = true := by
  refine ⟨by simp, by simp, by simp, by simp, by simp, by simp, by simp, by simp, by simp, ?_, ?_⟩ <;>
    exact next_of_check (by decide +kernel)

/-- A step that writes each timer. -/
theorem witness_StepLeavesTimeAndKeysAlone :
    (∃ t, step (withRegs (start 0x200 0xF315) [(3, 9)]) = .next t ∧ (t.dt != State.reset.dt) = true) ∧
    ∃ t, step (withRegs (start 0x200 0xF318) [(3, 9)]) = .next t ∧ (t.st != State.reset.st) = true :=
  ⟨next_of_check (by decide +kernel), next_of_check (by decide +kernel)⟩

theorem witness_EachOperationWritesOnlyItsOwnState : State.reset.mem.wf = true ∧
    (∃ t, perform (.step 0) (running 0x200) = .next t ∧ (t.pc == 0x202) = true) ∧
    (∃ t, perform (.advanceTimers 3) State.reset = .next t ∧ t.tValid = true) ∧
    (∃ t, perform (.keyWrite 3 true) { running 0x200 with phase := .awaitKey } = .next t ∧ (t.reg 0 == 3) = true) ∧
    (∃ t, perform (.keyWrite 3 false) { running 0x200 with phase := .awaitKey } = .next t ∧ (t.phase == .awaitKey) = true) ∧
    ∃ t, perform (.load [1]) State.reset = .next t ∧ (t.mem.byteAt 0x200 == 1) = true :=
  ⟨by decide, next_of_check (by decide +kernel), next_of_check (by decide +kernel), next_of_check (by decide +kernel),
    next_of_check (by decide +kernel), next_of_check (by decide +kernel)⟩

/-- Each transition happens (that of an oversized load is `witness_LoadFailuresAndRefusals`). -/
theorem witness_RunStateTransitions :
    (∃ t, perform .reset (running 0x200) = .next t ∧ (t.phase == .fresh) = true) ∧
    (∃ t, perform (.load []) State.reset = .next t ∧ (t.phase == .running) = true) ∧
    (∃ t, perform (.step 0) (start 0x200 0xF50A) = .next t ∧ (t.phase == .awaitKey) = true) ∧
    (∃ t, perform (.step 0) (start 0x200 0x00EE) = .next t ∧ (t.phase == .halted) = true) ∧
    ∃ t, perform (.keyWrite 3 true) { running 0x200 with phase := .awaitKey } = .next t ∧ (t.phase == .running) = true :=
  ⟨next_of_check (by decide +kernel), next_of_check (by decide +kernel), next_of_check (by decide +kernel),
    next_of_check (by decide +kernel), next_of_check (by decide +kernel)⟩

/-- The invariant holds of the reset state, and of it after a load of the empty image. -/
theorem reset_inv : State.reset.Inv where
  pc_inRange := by decide
  saved_inRange := by intro k hk; exact absurd hk (Nat.not_lt_zero _)
  fault_none_iff := by decide
  font_intact := fun _ _ => rfl
  mem_wf := rfl

/-- A running machine that meets the invariant and steps. -/
theorem witness_StepKeepsTheInvariant : (State.reset.loaded []).Inv ∧
    ∃ t, step (State.reset.loaded []) = .next t ∧ (t.pc == 0x202) = true :=
  ⟨⟨by decide, by intro k hk; exact absurd hk (Nat.not_lt_zero _), by decide, fun _ _ => rfl, rfl⟩,
    next_of_check (by decide +kernel)⟩

theorem witness_EveryOperationKeepsTheInvariant : State.reset.Inv ∧
    ∃ t, perform (.load [0x63, 0x7F]) State.reset = .next t ∧ (t.phase == .running) = true :=
  ⟨reset_inv, next_of_check (by decide +kernel)⟩

theorem witness_ReachableStatesMeetTheInvariant : Reachable (State.reset.loaded []) := ⟨[.load []], rfl⟩

theorem witness_SafeRunsHaveSafeBeginnings : HostOp.reset ∉ [HostOp.step 0] ∧ SafeRun ([.load []] ++ [.step 0]) := by
  refine ⟨by decide, ?_⟩
  obtain ⟨t, ht, hf⟩ := next_of_check (o := performAll ([.load []] ++ [.step 0]) State.reset)
    (f := fun t => t.fault == .none) (by decide +kernel)
  exact ⟨t, ht, by simpa using hf⟩

theorem witness_CanonicalMemoryIsUnique : Memory.wf [(0x200, 1#8), (0xFFE, 2#8)] = true := by decide +kernel

/-- The empty image and the largest one. -/
theorem witness_LoadCopiesTheImageAndRuns : State.reset.phase = .fresh ∧ State.reset.mem.wf = true ∧
    ([] : List Byte).length ≤ 3583 ∧ (List.replicate 3583 (0xAA#8)).length ≤ 3583 :=
  ⟨rfl, rfl, Nat.zero_le _, by rw [List.length_replicate]⟩

/-- One byte too many; a load in each other phase; a timestamp just below the last. -/
theorem witness_LoadFailuresAndRefusals : State.reset.phase = .fresh ∧ 3583 < (List.replicate 3584 (0xAA#8)).length ∧
    (running 0x200).phase ≠ .fresh ∧ { running 0x200 with phase := .awaitKey }.phase ≠ .fresh ∧
    (State.reset.raise .loadFault).phase ≠ .fresh ∧ (State.reset.baseline 50).tValid = true ∧
    49 < (State.reset.baseline 50).tLast := by
  refine ⟨rfl, by rw [List.length_replicate]; decide, ?_⟩
  decide +kernel

/-- No baseline; the same timestamp again; a later one. -/
theorem witness_AdvanceTimersBaselineAndDecay : State.reset.tValid = false ∧ (State.reset.baseline 50).tValid = true ∧
    (State.reset.baseline 50).tLast ≤ 50 ∧ (State.reset.baseline 50).tLast ≤ 67 := by decide

theorem witness_TimerDecayIsPathIndependent : (State.reset.baseline 0).tValid = true ∧
    ((State.reset.baseline 0).tLast :: ([16, 16, 17] ++ [1000])).Pairwise (· ≤ ·) := by decide

/-- A press that ends a wait; a release, a key held before and a press outside a wait, which do not. -/
theorem witness_KeyWriteSetsTheFlagAndMayEndAWait :
    ({ running 0x200 with phase := .awaitKey }.keys[15] = false ∧ { running 0x200 with phase := .awaitKey }.phase = .awaitKey) ∧
    ((running 0x200).setKey 3 true).keys[3] = true ∧ (running 0x200).phase ≠ .awaitKey := by decide +kernel

/-- Both answers of the run-state read, in every phase. -/
theorem witness_RunAndFaultReads : State.reset.run = false ∧ (running 0x200).run = true ∧
    { running 0x200 with phase := .awaitKey }.run = true ∧ (State.reset.raise .memoryFault).run = false ∧
    (State.reset.raise .memoryFault).faultCode = 5 := by decide +kernel

end Sys2Proof.Tests
end

section
/-! SUPPORT. Once, for each of the host's operations, everything it can do; then what each leaves alone (R30) and how each
may move the run state (R21). -/

namespace Sys2Proof.Machine

/-! ### Memory below program memory (R47) -/

/-- A write that its range test lets through leaves every byte outside the bytes it stores. -/
theorem Memory.byteAt_putBytes_of_writeRangeOk {m : Memory} {base : Nat} {bs : List Byte} (h : m.wf = true)
    (hok : writeRangeOk base bs.length = true) {a : Nat} (ha : a < base ∨ base + bs.length ≤ a) :
    (m.putBytes base bs).byteAt a = m.byteAt a := by
  cases bs with
  | nil => rfl
  | cons b bs =>
    obtain ⟨-, hend⟩ := (writeRangeOk_iff (by simp)).mp hok
    simp only [Config.memTop, List.length_cons] at hend
    exact Memory.byteAt_putBytes_outside h (by simp only [Config.memSize, List.length_cons]; omega) ha

/-- A write that its range test lets through leaves every byte below program memory. -/
theorem Memory.byteAt_putBytes_below_progBase {m : Memory} {base : Nat} {bs : List Byte} (h : m.wf = true)
    (hok : writeRangeOk base bs.length = true) {a : Nat} (ha : a < Config.progBase) :
    (m.putBytes base bs).byteAt a = m.byteAt a := by
  cases bs with
  | nil => rfl
  | cons b bs =>
    obtain ⟨hbase, -⟩ := (writeRangeOk_iff (by simp)).mp hok
    exact Memory.byteAt_putBytes_of_writeRangeOk h hok (.inl (ha.trans_le hbase))

/-- No instruction's effect changes a byte below program memory. -/
theorem Effect.byteAt_below_progBase {i : Instr} {s s' : State} (e : Effect i s s') (h : s.mem.wf = true) {a : Nat}
    (ha : a < Config.progBase) : s'.mem.byteAt a = s.mem.byteAt a := by
  rcases e.mem with hm | ⟨bs, -, hok, hm⟩
  · rw [hm]
  · rw [hm, Memory.byteAt_putBytes_below_progBase h hok ha]

/-! ### `Step(rnd)` (R80) -/

/-- Only `Cxkk` uses the random byte of the step. -/
theorem execWith_eq_exec {rnd : Byte} {i : Instr} {s : State} (h : ∀ x kk, i ≠ .rnd x kk) : execWith rnd i s = exec i s := by
  unfold execWith
  split
  · next x kk => exact absurd rfl (h x kk)
  · rfl

/-- Everything a next state of a meaning with its random byte given can be. -/
theorem execWith_next {rnd : Byte} {i : Instr} {s t : State} (e : execWith rnd i s = .next t) :
    (∃ k, k ≠ .none ∧ t = s.raise k) ∨
      ∃ n s', Effect i s s' ∧
        ((InRange n ∧ t = s'.setPc (BitVec.ofNat 16 n)) ∨ (¬InRange n ∧ t = s'.raise .controlFlowFault)) := by
  by_cases hi : ∃ x kk, i = .rnd x kk
  · obtain ⟨x, kk, rfl⟩ := hi
    have heff : Effect (.rnd x kk) s (s.setReg x (rnd &&& kk)).countDraw :=
      { Effect.setReg (.rnd x kk) s x (rnd &&& kk) (by simp [Instr.writesReg]) rfl with
        draws := fun h => absurd rfl (h x kk) }
    exact .inr ⟨_, _, heff, advance_cases e⟩
  · rw [execWith_eq_exec fun x kk h => hi ⟨x, kk, h⟩] at e
    rcases exec_next e with hraise | ⟨n, s', -, heff, -, ht⟩
    · exact .inl hraise
    · exact .inr ⟨n, s', heff, ht⟩

/-- Everything `Step(rnd)` can do: nothing outside `RUNNING`; else a fault raised on the state it found, or the effect of the
instruction fetched and then the write of the pc. -/
theorem stepWith_next {rnd : Byte} {s t : State} (h : stepWith rnd s = .next t) :
    (s.phase ≠ .running ∧ t = s) ∨ (s.phase = .running ∧ ∃ k, k ≠ .none ∧ t = s.raise k) ∨
      (s.phase = .running ∧ ∃ w n s', s.fetchWord = some w ∧ Effect (decodeWord w) s s' ∧
        ((InRange n ∧ t = s'.setPc (BitVec.ofNat 16 n)) ∨ (¬InRange n ∧ t = s'.raise .controlFlowFault))) := by
  rcases cycleWith_cases (execWith rnd) s with ⟨hp, hs⟩ | ⟨hp, -, hs⟩ | ⟨hp, w, hw, hs⟩
  · exact .inl ⟨hp, (Host.Outcome.next.inj (hs.symm.trans h)).symm⟩
  · exact .inr (.inl ⟨hp, .memoryFault, by decide, (Host.Outcome.next.inj (hs.symm.trans h)).symm⟩)
  · rcases execWith_next (hs.symm.trans h) with hraise | ⟨n, s', heff, ht⟩
    · exact .inr (.inl ⟨hp, hraise⟩)
    · exact .inr (.inr ⟨hp, w, n, s', hw, heff, ht⟩)

/-- `Step` leaves the keys, the hidden timer state and every byte below program memory (R30). -/
theorem stepWith_frame {rnd : Byte} {s t : State} (hm : s.mem.wf = true) (h : stepWith rnd s = .next t) :
    t.keys = s.keys ∧ t.tValid = s.tValid ∧ t.tLast = s.tLast ∧ t.tRem3 = s.tRem3 ∧
      ∀ a, a < Config.progBase → t.mem.byteAt a = s.mem.byteAt a := by
  rcases stepWith_next h with ⟨-, rfl⟩ | ⟨-, k, -, rfl⟩ | ⟨-, w, n, s', -, heff, ⟨-, rfl⟩ | ⟨-, rfl⟩⟩
  · exact ⟨rfl, rfl, rfl, rfl, fun _ _ => rfl⟩
  · exact ⟨rfl, rfl, rfl, rfl, fun _ _ => rfl⟩
  · exact ⟨heff.keys, heff.tValid, heff.tLast, heff.tRem3, fun _ => heff.byteAt_below_progBase hm⟩
  · exact ⟨heff.keys, heff.tValid, heff.tLast, heff.tRem3, fun _ => heff.byteAt_below_progBase hm⟩

/-- How `Step` may move the run state: not at all, from `RUNNING` to `AWAIT_KEY` by `Fx0A`, or from `RUNNING` to `HALTED` with
a fault recorded (R21). -/
theorem stepWith_phase {rnd : Byte} {s t : State} (h : stepWith rnd s = .next t) :
    t.phase = s.phase ∨
      (∃ w x, s.phase = .running ∧ s.fetchWord = some w ∧ decodeWord w = .ldVxK x ∧ t.phase = .awaitKey ∧ t.awaitX = x) ∨
      (s.phase = .running ∧ t.phase = .halted ∧ t.fault ≠ .none) := by
  rcases stepWith_next h with ⟨-, rfl⟩ | ⟨hp, k, hk, rfl⟩ | ⟨hp, w, n, s', hw, heff, ⟨-, rfl⟩ | ⟨-, rfl⟩⟩
  · exact .inl rfl
  · exact .inr (.inr ⟨hp, rfl, hk⟩)
  · rcases heff.phase with hsame | ⟨x, hi, hwait, hx⟩
    · exact .inl hsame
    · exact .inr (.inl ⟨w, x, hp, hw, hi, hwait, hx⟩)
  · exact .inr (.inr ⟨hp, rfl, by simp⟩)

/-! ### `AdvanceTimers` (R210 to R215) -/

/-- Everything a next state of `AdvanceTimers` can be. -/
theorem advanceTimers_next {n : Nat} {s t : State} (h : advanceTimers n s = .next t) :
    (s.tValid = false ∧ t = s.baseline n) ∨ (s.tValid = true ∧ s.tLast ≤ n ∧ t = s.decayed n) := by
  unfold advanceTimers at h
  split at h
  · next hv =>
    split at h
    · cases h
    · next hle => exact .inr ⟨hv, Nat.le_of_not_lt hle, (Host.Outcome.next.inj h).symm⟩
  · next hv => exact .inl ⟨by simpa using hv, (Host.Outcome.next.inj h).symm⟩

/-- `AdvanceTimers` writes only the timers and the hidden timer state (R30). -/
theorem advanceTimers_frame {n : Nat} {s t : State} (h : advanceTimers n s = .next t) :
    t = { s with dt := t.dt, st := t.st, tValid := t.tValid, tLast := t.tLast, tRem3 := t.tRem3 } := by
  rcases advanceTimers_next h with ⟨-, rfl⟩ | ⟨-, -, rfl⟩ <;> rfl

/-! ### `KeyWrite` (R216, R217) -/

/-- A `KeyWrite` ends a wait exactly when it presses a key that is not held during a key wait (R217). -/
theorem State.endsWait_iff {s : State} {k : KeyId} {b : Bool} :
    s.endsWait k b = true ↔ b = true ∧ s.keys[k.val] = false ∧ s.phase = .awaitKey := by
  simp [State.endsWait, and_assoc]

/-- Everything `KeyWrite` can do: the press that ends a wait sets the flag, writes the key to the waiting register and
resumes; any other sets the flag and nothing else. -/
theorem keyWrite_cases {k : KeyId} {b : Bool} {s t : State} (h : keyWrite k b s = t) :
    ((b = true ∧ s.keys[k.val] = false ∧ s.phase = .awaitKey) ∧
        t = { (s.setKey k b).setReg s.awaitX (BitVec.ofNat 8 k.val) with phase := .running }) ∨
      (s.endsWait k b = false ∧ t = s.setKey k b) := by
  unfold keyWrite at h
  split at h
  · next hends => exact .inl ⟨State.endsWait_iff.mp hends, h.symm⟩
  · next hends => exact .inr ⟨by simpa using hends, h.symm⟩

/-- `KeyWrite` writes only the keys and, when it moves the run state, the waiting register (R30). -/
theorem keyWrite_frame {k : KeyId} {b : Bool} {s t : State} (h : keyWrite k b s = t) :
    t = { s with keys := t.keys, V := t.V, phase := t.phase } ∧ (t.phase = s.phase → t.V = s.V) ∧
      ∀ r, r ≠ s.awaitX → t.reg r = s.reg r := by
  rcases keyWrite_cases h with ⟨⟨-, -, hwait⟩, rfl⟩ | ⟨-, rfl⟩
  · refine ⟨rfl, fun hp => ?_, fun r hr => State.reg_setReg_other (s.setKey k b) s.awaitX r _ hr⟩
    simp [hwait] at hp
  · exact ⟨rfl, fun _ => rfl, fun _ _ => rfl⟩

/-- How `KeyWrite` may move the run state: only a press of a key not held, from `AWAIT_KEY` to `RUNNING` (R21, R217). -/
theorem keyWrite_phase {k : KeyId} {b : Bool} {s t : State} (h : keyWrite k b s = t) :
    t.phase = s.phase ∨ (b = true ∧ s.keys[k.val] = false ∧ s.phase = .awaitKey ∧ t.phase = .running) := by
  rcases keyWrite_cases h with ⟨⟨hb, hkey, hwait⟩, rfl⟩ | ⟨-, rfl⟩
  · exact .inr ⟨hb, hkey, hwait, rfl⟩
  · exact .inl rfl

/-! ### `Load` (R231 to R233) -/

/-- Everything a next state of `Load` can be. -/
theorem loadOp_next {image : List Byte} {s t : State} (h : loadOp image s = .next t) :
    s.phase = .fresh ∧
      ((image.length ≤ Config.maxImage ∧ t = s.loaded image) ∨
        (Config.maxImage < image.length ∧ t = s.raise .loadFault)) := by
  cases hp : s.phase with
  | fresh =>
    refine ⟨rfl, ?_⟩
    by_cases hlen : image.length ≤ Config.maxImage
    · rw [loadOp, load, hp, if_pos hlen] at h
      exact .inl ⟨hlen, (Host.Outcome.next.inj h).symm⟩
    · rw [loadOp, load, hp, if_neg hlen] at h
      exact .inr ⟨Nat.lt_of_not_le hlen, (Host.Outcome.next.inj h).symm⟩
  | running => simp [loadOp, load, hp] at h
  | awaitKey => simp [loadOp, load, hp] at h
  | halted => simp [loadOp, load, hp] at h

/-- `Load` writes only the run state, the fault and memory, and of memory nothing below program memory (R30). -/
theorem loadOp_frame {image : List Byte} {s t : State} (hm : s.mem.wf = true) (h : loadOp image s = .next t) :
    t = { s with mem := t.mem, phase := t.phase, fault := t.fault } ∧
      ∀ a, a < Config.progBase → t.mem.byteAt a = s.mem.byteAt a := by
  obtain ⟨-, ⟨hlen, rfl⟩ | ⟨-, rfl⟩⟩ := loadOp_next h
  · refine ⟨rfl, fun a ha => Memory.byteAt_putBytes_outside hm ?_ (.inl ha)⟩
    simp only [Config.maxImage, Config.progBase, Config.memSize] at hlen ⊢
    omega
  · exact ⟨rfl, fun _ _ => rfl⟩

/-! ### The obligations -/

/-- Settles O46: the frames of the four operations, each read off everything that the operation can do. -/
theorem eachOperationWritesOnlyItsOwnState : Obligations.EachOperationWritesOnlyItsOwnState :=
  fun _ _ =>
    ⟨fun _ hm h => stepWith_frame hm h, fun _ h => advanceTimers_frame h,
      fun _ _ h => keyWrite_frame (Host.Outcome.next.inj h), fun _ hm h => loadOp_frame hm h⟩

/-- Settles O47, operation by operation. -/
theorem runStateTransitions : Obligations.RunStateTransitions := by
  intro op s t h
  cases op with
  | reset =>
    obtain rfl := Host.Outcome.next.inj h
    exact .inr (.inl ⟨rfl, rfl⟩)
  | load image =>
    obtain ⟨hp, ⟨hlen, rfl⟩ | ⟨hlen, rfl⟩⟩ := loadOp_next h
    · exact .inr (.inr (.inl ⟨image, rfl, hp, .inl ⟨hlen, rfl⟩⟩))
    · exact .inr (.inr (.inl ⟨image, rfl, hp, .inr ⟨hlen, rfl, rfl⟩⟩))
  | step rnd =>
    rcases stepWith_phase h with hsame | ⟨w, x, hwait⟩ | hhalt
    · exact .inl hsame
    · exact .inr (.inr (.inr (.inl ⟨rnd, w, x, rfl, hwait⟩)))
    · exact .inr (.inr (.inr (.inr (.inl ⟨rnd, rfl, hhalt⟩))))
  | advanceTimers n => exact .inl (congrArg State.phase (advanceTimers_frame h) :)
  | keyWrite k b =>
    rcases keyWrite_phase (Host.Outcome.next.inj h) with hsame | ⟨rfl, hpress⟩
    · exact .inl hsame
    · exact .inr (.inr (.inr (.inr (.inr ⟨k, rfl, hpress⟩))))

end Sys2Proof.Machine
end

section
/-! SUPPORT. A word made of two bytes, and its bytes again (R42). -/

namespace Sys2Proof.Machine

/-! ### A word and its two bytes -/

/-- Two bytes fill a word exactly: nothing is lost to the width. -/
theorem wordOfBytes_toNat (hi lo : Byte) : (wordOfBytes hi lo).toNat = hi.toNat * 256 + lo.toNat := by
  have hhi := hi.isLt
  have hlo := lo.isLt
  simp only [wordOfBytes, BitVec.toNat_ofNat]
  omega

@[simp] theorem highByte_wordOfBytes (hi lo : Byte) : highByte (wordOfBytes hi lo) = hi := by
  have hhi := hi.isLt
  have hlo := lo.isLt
  apply BitVec.eq_of_toNat_eq
  simp only [highByte, wordOfBytes_toNat, BitVec.toNat_ofNat]
  omega

@[simp] theorem lowByte_wordOfBytes (hi lo : Byte) : lowByte (wordOfBytes hi lo) = lo := by
  have hlo := lo.isLt
  apply BitVec.eq_of_toNat_eq
  simp only [lowByte, wordOfBytes_toNat, BitVec.toNat_ofNat]
  omega

/-! ### The obligation -/

/-- Settles O8: the fetch gives the word of the two bytes at the pc, and a word of two bytes gives each of them back. -/
theorem fetchIsBigEndian : Obligations.FetchIsBigEndian := fun _ hpc =>
  ⟨_, State.fetchWord_eq_some.mpr ⟨hpc, rfl⟩, wordOfBytes_toNat _ _, highByte_wordOfBytes _ _, lowByte_wordOfBytes _ _⟩

end Sys2Proof.Machine
end

section
/-! SUPPORT. The fields of a word read as its bits and from its two bytes (R61), and the rows of the opcode map that a
word can select (R68). -/

namespace Sys2Proof.Machine

/-! ### The fields as bits, and from the two bytes (R61) -/

theorem fieldOp_lt (w : Word) : fieldOp w < 16 := Nat.div_lt_of_lt_mul w.isLt

theorem fieldN_toNat (w : Word) : (fieldN w).toNat = w.toNat % 16 := BitVec.toNat_ofNat ..

theorem fieldKk_toNat (w : Word) : (fieldKk w).toNat = w.toNat % 256 := BitVec.toNat_ofNat ..

theorem lowByte_toNat (w : Word) : (lowByte w).toNat = w.toNat % 256 := BitVec.toNat_ofNat ..

theorem highByte_toNat (w : Word) : (highByte w).toNat = w.toNat / 256 := by
  have hw := w.isLt
  simp only [highByte, BitVec.toNat_ofNat]
  omega

/-- A number cut to `k` bits is the lowest `k` bits of the word it comes from. -/
theorem ofNat_toNat_eq_extractLsb' (w : Word) (k : Nat) : BitVec.ofNat k w.toNat = w.extractLsb' 0 k := by
  apply BitVec.eq_of_toNat_eq
  rw [BitVec.toNat_ofNat, BitVec.extractLsb'_toNat, Nat.shiftRight_zero]

theorem fieldOp_eq_bits (w : Word) : fieldOp w = (w.extractLsb' 12 4).toNat := by
  have hop := fieldOp_lt w
  rw [BitVec.extractLsb'_toNat, Nat.shiftRight_eq_div_pow]
  exact (Nat.mod_eq_of_lt hop).symm

theorem fieldX_eq_bits (w : Word) : (fieldX w).val = (w.extractLsb' 8 4).toNat := by
  rw [BitVec.extractLsb'_toNat, Nat.shiftRight_eq_div_pow]
  rfl

theorem fieldY_eq_bits (w : Word) : (fieldY w).val = (w.extractLsb' 4 4).toNat := by
  rw [BitVec.extractLsb'_toNat, Nat.shiftRight_eq_div_pow]
  rfl

theorem fieldOp_eq_highByte (w : Word) : fieldOp w = (highByte w).toNat / 16 := by
  rw [highByte_toNat, Nat.div_div_eq_div_mul]
  rfl

theorem fieldX_eq_highByte (w : Word) : (fieldX w).val = (highByte w).toNat % 16 := by
  rw [highByte_toNat]
  rfl

theorem fieldY_eq_lowByte (w : Word) : (fieldY w).val = (lowByte w).toNat / 16 := by
  rw [lowByte_toNat]
  simp only [fieldY]
  omega

theorem fieldN_eq_lowByte (w : Word) : (fieldN w).toNat = (lowByte w).toNat % 16 := by
  rw [fieldN_toNat, lowByte_toNat]
  omega

/-- The bytes a word is stored as make the word again (R42, R72). -/
@[simp] theorem wordOfBytes_highByte_lowByte (w : Word) : wordOfBytes (highByte w) (lowByte w) = w := by
  apply BitVec.eq_of_toNat_eq
  rw [wordOfBytes_toNat, highByte_toNat, lowByte_toNat, Nat.div_add_mod']

/-- Any word, stored high byte first, decodes (R61). -/
theorem decode_bytes_of_word (w : Word) (rest : List Byte) :
    decode (highByte w :: lowByte w :: rest) = .instr (decodeWord w) rest := by
  rw [decode, wordOfBytes_highByte_lowByte]

/-- Settles O1, field by field. -/
theorem wordFieldsAreTheBitsOfTheWord : Obligations.WordFieldsAreTheBitsOfTheWord := fun w =>
  ⟨fieldOp_eq_bits w, fieldX_eq_bits w, fieldY_eq_bits w, ofNat_toNat_eq_extractLsb' w 4,
    ofNat_toNat_eq_extractLsb' w 8, ofNat_toNat_eq_extractLsb' w 12, fieldOp_eq_highByte w, fieldX_eq_highByte w,
    fieldY_eq_lowByte w, fieldN_eq_lowByte w, rfl, decode_bytes_of_word w⟩

/-! ### A word under the masks of the opcode map (R68) -/

/-- What a mask of the top four bits and the lowest `k` keeps of a word. -/
theorem toNat_and_opMask (w : Word) {k : Nat} (hk : k ≤ 12) :
    w.toNat &&& (2 ^ 12 * (2 ^ 4 - 1) + (2 ^ k - 1)) = 2 ^ 12 * fieldOp w + w.toNat % 2 ^ k := by
  have hpow : 2 ^ k ≤ 2 ^ 12 := Nat.pow_le_pow_right Nat.two_pos hk
  have hmod : w.toNat % 2 ^ k < 2 ^ 12 := (Nat.mod_lt w.toNat (Nat.two_pow_pos k)).trans_le hpow
  apply Nat.eq_of_testBit_eq
  intro j
  rw [Nat.testBit_and, Nat.testBit_two_pow_mul_add _ (Nat.sub_one_lt_of_le (Nat.two_pow_pos k) hpow),
    Nat.testBit_two_pow_mul_add _ hmod]
  split
  · rw [Nat.testBit_two_pow_sub_one, Nat.testBit_mod_two_pow, Bool.and_comm]
  next hj =>
    have hop : (fieldOp w).testBit (j - 12) = w.toNat.testBit j := by
      rw [show fieldOp w = w.toNat / 2 ^ 12 from rfl, Nat.testBit_div_two_pow, Nat.sub_add_cancel (Nat.le_of_not_lt hj)]
    rw [← hop, ← Nat.testBit_and, Nat.and_two_pow_sub_one_eq_mod, Nat.mod_eq_of_lt (fieldOp_lt w)]

/-- `F000` keeps `op`. -/
theorem toNat_and_F000 (w : Word) : (w &&& 0xF000#16).toNat = 4096 * fieldOp w := by
  simpa [Nat.mod_one] using toNat_and_opMask w (k := 0) (by decide)

/-- `F00F` keeps `op` and `n`. -/
theorem toNat_and_F00F (w : Word) : (w &&& 0xF00F#16).toNat = 4096 * fieldOp w + (fieldN w).toNat := by
  simpa [fieldN_toNat] using toNat_and_opMask w (k := 4) (by decide)

/-- `F0FF` keeps `op` and `kk`. -/
theorem toNat_and_F0FF (w : Word) : (w &&& 0xF0FF#16).toNat = 4096 * fieldOp w + (fieldKk w).toNat := by
  simpa [fieldKk_toNat] using toNat_and_opMask w (k := 8) (by decide)

/-- `FFFF` keeps the word. -/
theorem and_FFFF (w : Word) : w &&& 0xFFFF#16 = w := BitVec.and_allOnes

/-! ### Only the rows of a word's own family can be selected -/

/-- A word selects a row (R68). -/
def OpcodeRow.selects (row : OpcodeRow) (w : Word) : Bool := w &&& row.mask == row.pattern

/-- The rows of a family, in the order of the map. -/
def familyRows (op : Nat) : List OpcodeRow := opcodeMap.filter fun row => fieldOp row.pattern == op

/-- A row whose mask keeps the top four bits is selected in its own family only. -/
theorem OpcodeRow.fieldOp_of_selects {row : OpcodeRow} {w : Word} (hmask : row.mask &&& 0xF000#16 = 0xF000#16)
    (h : row.selects w = true) : fieldOp row.pattern = fieldOp w := by
  have hpat : row.pattern &&& 0xF000#16 = w &&& 0xF000#16 := by
    rw [← eq_of_beq h, BitVec.and_assoc, hmask]
  have hop := congrArg BitVec.toNat hpat
  rw [toNat_and_F000, toNat_and_F000] at hop
  omega

theorem mask_of_mem_opcodeMap : ∀ row ∈ opcodeMap, row.mask &&& 0xF000#16 = 0xF000#16 := by decide

theorem firstRow_eq_find_familyRows (w : Word) :
    firstRow w = ((familyRows (fieldOp w)).find? (·.selects w)).map OpcodeRow.number := by
  have hrows : opcodeMap.filter (·.selects w) =
      opcodeMap.filter fun row => row.selects w && fieldOp row.pattern == fieldOp w := by
    refine List.filter_congr fun row hmem => ?_
    cases hsel : row.selects w with
    | false => rfl
    | true => simp [OpcodeRow.fieldOp_of_selects (mask_of_mem_opcodeMap row hmem) hsel]
  rw [← List.head?_filter, familyRows, List.filter_filter, ← hrows, List.head?_filter]
  rfl

theorem firstRow_of_familyRows {w : Word} {op : Nat} {rows : List OpcodeRow} (hop : fieldOp w = op)
    (hrows : familyRows op = rows) : firstRow w = (rows.find? (·.selects w)).map OpcodeRow.number := by
  rw [firstRow_eq_find_familyRows, hop, hrows]

/-! ### What selecting a row asks of the fields, by the row's mask -/

theorem OpcodeRow.selects_eq_decide (row : OpcodeRow) (w : Word) :
    row.selects w = decide ((w &&& row.mask).toNat = row.pattern.toNat) :=
  Bool.eq_iff_iff.mpr (by rw [OpcodeRow.selects, beq_iff_eq, decide_eq_true_iff, BitVec.toNat_inj])

@[simp] theorem OpcodeRow.selects_F000 (i : Nat) (p w : Word) :
    (OpcodeRow.mk i p 0xF000#16).selects w = decide (4096 * fieldOp w = p.toNat) := by
  rw [OpcodeRow.selects_eq_decide, toNat_and_F000]

@[simp] theorem OpcodeRow.selects_F00F (i : Nat) (p w : Word) :
    (OpcodeRow.mk i p 0xF00F#16).selects w = decide ((fieldN w).toNat + 4096 * fieldOp w = p.toNat) := by
  rw [OpcodeRow.selects_eq_decide, toNat_and_F00F, Nat.add_comm]

@[simp] theorem OpcodeRow.selects_F0FF (i : Nat) (p w : Word) :
    (OpcodeRow.mk i p 0xF0FF#16).selects w = decide ((fieldKk w).toNat + 4096 * fieldOp w = p.toNat) := by
  rw [OpcodeRow.selects_eq_decide, toNat_and_F0FF, Nat.add_comm]

@[simp] theorem OpcodeRow.selects_FFFF (i : Nat) (p w : Word) :
    (OpcodeRow.mk i p 0xFFFF#16).selects w = decide (w = p) := by
  rw [OpcodeRow.selects_eq_decide, and_FFFF]
  exact decide_eq_decide.mpr BitVec.toNat_inj

/-! ### The first row in each family

In a catch-all arm of the decoder every test before it has failed; `imp_false` gives those failures the form `¬`. -/

/-- A family of one row: all its words select that row. -/
theorem firstRow_of_single {w : Word} {op i : Nat} (hop : fieldOp w = op)
    (hrows : familyRows op = [⟨i, BitVec.ofNat 16 (4096 * op), 0xF000#16⟩]) : firstRow w = some i := by
  have hlt := fieldOp_lt w
  have hpat : 4096 * fieldOp w = (BitVec.ofNat 16 (4096 * op)).toNat := by
    rw [BitVec.toNat_ofNat]
    omega
  simp [firstRow_of_familyRows hop hrows, hpat]

/-- Family 0 compares the whole word (R64, R66a). -/
theorem firstRow_family0 {w : Word} (hop : fieldOp w = 0) : firstRow w = some (decodeFamily0 w).rowNumber := by
  have hrows : familyRows 0 = [⟨1, 0x00E0#16, 0xFFFF#16⟩, ⟨2, 0x00EE#16, 0xFFFF#16⟩, ⟨3, 0x0000#16, 0xF000#16⟩] := by
    decide
  rw [firstRow_of_familyRows hop hrows, decodeFamily0]
  split
  next hcls => simp [hcls, Instr.rowNumber]
  next hcls =>
    split
    next hret => simp [hret, Instr.rowNumber]
    next hret => simp [hcls, hret, hop, Instr.rowNumber]

/-- Family 8 compares `n`, in the decoder's order (R64, R66b). -/
theorem firstRow_family8 {w : Word} (hop : fieldOp w = 8) : firstRow w = some (decodeFamily8 w).rowNumber := by
  have hrows : familyRows 8 =
      [⟨11, 0x8000#16, 0xF00F#16⟩, ⟨12, 0x8001#16, 0xF00F#16⟩, ⟨13, 0x8002#16, 0xF00F#16⟩, ⟨14, 0x8003#16, 0xF00F#16⟩,
        ⟨15, 0x8004#16, 0xF00F#16⟩, ⟨16, 0x8005#16, 0xF00F#16⟩, ⟨17, 0x8006#16, 0xF00F#16⟩, ⟨18, 0x8007#16, 0xF00F#16⟩,
        ⟨19, 0x800E#16, 0xF00F#16⟩, ⟨20, 0x8000#16, 0xF000#16⟩] := by decide
  rw [firstRow_of_familyRows hop hrows, decodeFamily8]
  split
  case h_10 =>
    simp only [imp_false] at *
    simp [*, Instr.rowNumber]
  all_goals simp [*, Instr.rowNumber]

/-- Family E compares `kk`, in the decoder's order (R64, R66c). -/
theorem firstRow_familyE {w : Word} (hop : fieldOp w = 14) : firstRow w = some (decodeFamilyE w).rowNumber := by
  have hrows : familyRows 14 =
      [⟨26, 0xE09E#16, 0xF0FF#16⟩, ⟨27, 0xE0A1#16, 0xF0FF#16⟩, ⟨28, 0xE000#16, 0xF000#16⟩] := by decide
  rw [firstRow_of_familyRows hop hrows, decodeFamilyE]
  split
  case h_3 =>
    simp only [imp_false] at *
    simp [*, Instr.rowNumber]
  all_goals simp [*, Instr.rowNumber]

/-- Family F compares `kk`, in the decoder's order (R64, R66d). -/
theorem firstRow_familyF {w : Word} (hop : fieldOp w = 15) : firstRow w = some (decodeFamilyF w).rowNumber := by
  have hrows : familyRows 15 =
      [⟨29, 0xF007#16, 0xF0FF#16⟩, ⟨30, 0xF00A#16, 0xF0FF#16⟩, ⟨31, 0xF015#16, 0xF0FF#16⟩, ⟨32, 0xF018#16, 0xF0FF#16⟩,
        ⟨33, 0xF01E#16, 0xF0FF#16⟩, ⟨34, 0xF029#16, 0xF0FF#16⟩, ⟨35, 0xF033#16, 0xF0FF#16⟩, ⟨36, 0xF055#16, 0xF0FF#16⟩,
        ⟨37, 0xF065#16, 0xF0FF#16⟩, ⟨38, 0xF000#16, 0xF000#16⟩] := by decide
  rw [firstRow_of_familyRows hop hrows, decodeFamilyF]
  split
  case h_10 =>
    simp only [imp_false] at *
    simp [*, Instr.rowNumber]
  all_goals simp [*, Instr.rowNumber]

/-- Settles O4, along the decoder's first dispatch: four families with a test of their own, twelve of one row. -/
theorem decoderFollowsTheOpcodeMap : Obligations.DecoderFollowsTheOpcodeMap := by
  intro w
  unfold decodeWord
  split
  case h_1 hop => exact firstRow_family0 hop
  case h_9 hop => exact firstRow_family8 hop
  case h_15 hop => exact firstRow_familyE hop
  case h_16 =>
    have hlt := fieldOp_lt w
    simp only [imp_false] at *
    exact firstRow_familyF (by omega)
  all_goals
    next hop => exact firstRow_of_single hop rfl

end Sys2Proof.Machine
end

section
/-! SUPPORT. `Step` is `Step(rnd)` with the drawn byte, so what `Step(rnd)` can do it can do (R28, R80); then what every step
leaves of the timers, the keys and the hidden timer state (R88). -/

namespace Sys2Proof.Machine

/-! ### `Step` as `Step(rnd)` with the drawn byte -/

/-- A meaning is its meaning with the random byte given, when that byte is the next draw's (R28). -/
theorem exec_eq_execWith_randomByte (i : Instr) (s : State) : exec i s = execWith (Config.randomByte s.draws) i s := by
  unfold execWith
  split
  · next x kk => rfl
  · rfl

/-- `Step` is `Step(rnd)` with the next draw's byte: both gate and fetch alike, and the meanings agree. -/
theorem step_eq_stepWith_randomByte (s : State) : step s = stepWith (Config.randomByte s.draws) s := by
  unfold step stepWith cycleWith fetchAndRun
  simp only [exec_eq_execWith_randomByte]

/-! ### The timers, the keys and the hidden timer state (R88) -/

/-- An effect that changes the delay timer is that of an `Fx15`. -/
theorem Effect.eq_ldDTVx_of_dt_ne {i : Instr} {s s' : State} (e : Effect i s s') (h : s'.dt ≠ s.dt) : ∃ x, i = .ldDTVx x :=
  by_contra fun hno => h (e.dt (not_exists.mp hno))

/-- An effect that changes the sound timer is that of an `Fx18`. -/
theorem Effect.eq_ldSTVx_of_st_ne {i : Instr} {s s' : State} (e : Effect i s s') (h : s'.st ≠ s.st) : ∃ x, i = .ldSTVx x :=
  by_contra fun hno => h (e.st (not_exists.mp hno))

/-- `Step(rnd)` changes a timer only by the instruction that writes it, and neither the keys nor the hidden timer state: a
step without an effect changes none of them, and the write of the pc after an effect keeps what the effect left. -/
theorem stepWith_timers_keys {rnd : Byte} {s t : State} (h : stepWith rnd s = .next t) :
    (t.dt ≠ s.dt → ∃ w x, s.fetchWord = some w ∧ decodeWord w = .ldDTVx x) ∧
      (t.st ≠ s.st → ∃ w x, s.fetchWord = some w ∧ decodeWord w = .ldSTVx x) ∧
      t.keys = s.keys ∧ t.tValid = s.tValid ∧ t.tLast = s.tLast ∧ t.tRem3 = s.tRem3 := by
  rcases stepWith_next h with ⟨-, rfl⟩ | ⟨-, k, -, rfl⟩ | ⟨-, w, n, s', hw, heff, hpc⟩
  · simp
  · simp
  · have hdt (hne : s'.dt ≠ s.dt) : ∃ w x, s.fetchWord = some w ∧ decodeWord w = .ldDTVx x :=
      have ⟨x, hx⟩ := heff.eq_ldDTVx_of_dt_ne hne
      ⟨w, x, hw, hx⟩
    have hst (hne : s'.st ≠ s.st) : ∃ w x, s.fetchWord = some w ∧ decodeWord w = .ldSTVx x :=
      have ⟨x, hx⟩ := heff.eq_ldSTVx_of_st_ne hne
      ⟨w, x, hw, hx⟩
    rcases hpc with ⟨-, rfl⟩ | ⟨-, rfl⟩
    · exact ⟨hdt, hst, heff.keys, heff.tValid, heff.tLast, heff.tRem3⟩
    · exact ⟨hdt, hst, heff.keys, heff.tValid, heff.tLast, heff.tRem3⟩

/-- Settles O45: the frame of `Step(rnd)` at the drawn byte. -/
theorem stepLeavesTimeAndKeysAlone : Obligations.StepLeavesTimeAndKeysAlone := fun s _ h =>
  stepWith_timers_keys ((step_eq_stepWith_randomByte s).symm.trans h)

end Sys2Proof.Machine
end

section
/-! SUPPORT. The two jumps hand their target to `finish` on the state they found; the targets out of range as the spec states
them, and the word the pc then holds (R103, R142). -/

namespace Sys2Proof.Machine

/-! ### What the jumps do -/

/-- JP changes nothing before the write of the pc (R103). -/
theorem exec_jp (nnn : Addr12) (s : State) : exec (.jp nnn) s = finish nnn.toNat s := rfl

/-- JP V0 changes nothing before the write of the pc, and its target is the whole sum (R142). -/
theorem exec_jpV0 (nnn : Addr12) (s : State) : exec (.jpV0 nnn) s = finish ((s.reg 0).toNat + nnn.toNat) s := rfl

/-! ### Targets -/

/-- The illegal values of the pc: the reserved bytes below program memory, and `0xFFF` and everything above it (R14). -/
theorem not_inRange_iff {a : Nat} : ¬InRange a ↔ a < 0x200 ∨ 0xFFF ≤ a := by
  rw [not_and_or, Nat.not_le, Nat.not_lt]

/-- The word of a byte and an address summed is the sum of their words. -/
theorem ofNat_byte_add_addr (b : Byte) (nnn : Addr12) :
    BitVec.ofNat 16 (b.toNat + nnn.toNat) = b.setWidth 16 + nnn.setWidth 16 := by
  rw [BitVec.ofNat_add, BitVec.ofNat_toNat, BitVec.ofNat_toNat]

/-- Settles O14: both jumps are `finish` at their target, which is in range or not. -/
theorem jumpsSetPcOrFault : Obligations.JumpsSetPcOrFault := by
  intro s nnn
  rw [exec_jp, exec_jpV0]
  refine ⟨fun hin => ?_, fun hout => ?_, fun hin => ?_, fun hout => ?_⟩
  · rw [finish_of_inRange hin, BitVec.ofNat_toNat, State.setPc]
  · exact finish_of_not_inRange (not_inRange_iff.mpr (hout.imp_right Eq.ge))
  · rw [finish_of_inRange hin, ofNat_byte_add_addr, State.setPc]
  · exact finish_of_not_inRange (not_inRange_iff.mpr hout)

end Sys2Proof.Machine
end

section
/-! SUPPORT. The sequential advance when it stays legal, alone and after a write of one register, with and without the flag
(R83, R119); then what the no-ops, the register loads and the add and subtract operations do before it. -/

namespace Sys2Proof.Machine

/-! ### The advance after each kind of register write -/

/-- A legal sequential advance writes the pc and nothing else (R83, R85). -/
theorem advance_of_canAdvance {s : State} (h : s.CanAdvance) : advance s = .next { s with pc := s.pc + 2 } := by
  rw [advance, finish_of_inRange h, ofNat_pc_add]
  rfl

/-- A register write and a legal advance. -/
theorem advance_setReg_of_canAdvance {s : State} (h : s.CanAdvance) (x : RegIdx) (b : Byte) :
    advance (s.setReg x b) = .next { s with V := s.V.set x.val b, pc := s.pc + 2 } :=
  advance_of_canAdvance (s := s.setReg x b) h

/-- A flag as the byte the spec writes: 1 when its condition holds and 0 when it does not (R11). -/
theorem flagByte_decide (p : Prop) [Decidable p] : flagByte (decide p) = if p then 1 else 0 := by
  simp only [flagByte, decide_eq_true_eq]

/-- A result, then the flag of a condition, and a legal advance (R119). -/
theorem advance_setResultFlag_of_canAdvance {s : State} (h : s.CanAdvance) (x : RegIdx) (b : Byte) (p : Prop) [Decidable p] :
    advance (s.setResultFlag x b (decide p)) =
      .next { s with V := (s.V.set x.val b).set 15 (if p then 1 else 0), pc := s.pc + 2 } := by
  rw [advance_of_canAdvance (s := s.setResultFlag x b (decide p)) h, State.setResultFlag_V, flagByte_decide]
  rfl

/-! ### The no-ops (R102, R129, R162, R179) -/

theorem exec_sys (nnn : Addr12) (s : State) : exec (.sys nnn) s = advance s := rfl

theorem exec_nop8 (x y : RegIdx) (n : Nibble) (s : State) : exec (.nop8 x y n) s = advance s := rfl

theorem exec_nopE (x : RegIdx) (kk : Byte) (s : State) : exec (.nopE x kk) s = advance s := rfl

theorem exec_nopF (x : RegIdx) (kk : Byte) (s : State) : exec (.nopF x kk) s = advance s := rfl

/-- Settles O12: each no-op is the advance alone. -/
theorem noOpsOnlyAdvance : Obligations.NoOpsOnlyAdvance := by
  intro s nnn x y n kk h
  rw [exec_sys, exec_nop8, exec_nopE, exec_nopF, advance_of_canAdvance h]
  exact ⟨rfl, rfl, rfl, rfl⟩

/-! ### The register loads (R113, R120, R170) -/

theorem exec_ldImm (x : RegIdx) (kk : Byte) (s : State) : exec (.ldImm x kk) s = advance (s.setReg x kk) := rfl

theorem exec_ldReg (x y : RegIdx) (s : State) : exec (.ldReg x y) s = advance (s.setReg x (s.reg y)) := rfl

theorem exec_ldVxDT (x : RegIdx) (s : State) : exec (.ldVxDT x) s = advance (s.setReg x s.dt) := rfl

/-- Settles O21: each load is one register write and the advance. -/
theorem loadsWriteTheirRegister : Obligations.LoadsWriteTheirRegister := by
  intro s x y kk h
  rw [exec_ldImm, exec_ldReg, exec_ldVxDT]
  exact ⟨advance_setReg_of_canAdvance h x kk, advance_setReg_of_canAdvance h x (s.reg y),
    advance_setReg_of_canAdvance h x s.dt⟩

/-! ### The add and subtract operations (R124, R125, R127) -/

theorem exec_addReg (x y : RegIdx) (s : State) :
    exec (.addReg x y) s =
      advance (s.setResultFlag x (s.reg x + s.reg y) (decide ((s.reg x).toNat + (s.reg y).toNat > 255))) := by
  rw [← addByte_eq]
  rfl

theorem exec_sub (x y : RegIdx) (s : State) :
    exec (.sub x y) s = advance (s.setResultFlag x (s.reg x - s.reg y) (decide ((s.reg x).toNat > (s.reg y).toNat))) := by
  rw [← subByte_eq]
  rfl

theorem exec_subn (x y : RegIdx) (s : State) :
    exec (.subn x y) s = advance (s.setResultFlag x (s.reg y - s.reg x) (decide ((s.reg y).toNat > (s.reg x).toNat))) := by
  rw [← subByte_eq]
  rfl

/-- Settles O23: each operation is its result modulo 256, the flag of its condition, and the advance. -/
theorem addAndSubtractWriteResultThenFlag : Obligations.AddAndSubtractWriteResultThenFlag := by
  intro s x y h
  rw [exec_addReg, exec_sub, exec_subn]
  exact ⟨advance_setResultFlag_of_canAdvance h x _ _, advance_setResultFlag_of_canAdvance h x _ _,
    advance_setResultFlag_of_canAdvance h x _ _⟩

end Sys2Proof.Machine
end

section
/-! SUPPORT. What drawing does to the canvas, as the set of pixels it targets: a bit, a row and a sprite each flip their targets
and hit when one of them was lit (R150, R151). No pixel is targeted twice, since a row has 8 bits of 64 columns and a sprite
at most 15 rows of 32. -/

namespace Sys2Proof.Machine

/-! ### Drawing a set of targets -/

/-- `q` is `p` with exactly the pixels of `T` flipped, and with a hit when `p` had one or some pixel of `T` was lit in `p`. -/
structure Canvas.Xored (T : Fin 64 → Fin 32 → Bool) (p q : Canvas) : Prop where
  pixel : ∀ c r, Framebuffer.pixel q.1 c r = (Framebuffer.pixel p.1 c r ^^ T c r)
  hit : q.2 = true ↔ p.2 = true ∨ ∃ c r, (T c r && Framebuffer.pixel p.1 c r) = true

/-- Without targets nothing changes. -/
theorem Canvas.Xored.refl (p : Canvas) : Canvas.Xored (fun _ _ => false) p p := by
  constructor <;> simp

/-- Targets drawn one set after the other, none of them twice, are drawn together: the second set finds its pixels as they
were at the start. -/
theorem Canvas.Xored.trans {T U : Fin 64 → Fin 32 → Bool} {p q u : Canvas} (hT : Canvas.Xored T p q)
    (hU : Canvas.Xored U q u) (hdisj : ∀ c r, U c r = true → T c r = false) :
    Canvas.Xored (fun c r => T c r || U c r) p u where
  pixel c r := by
    rw [hU.pixel, hT.pixel]
    cases hu : U c r with
    | false => simp
    | true => simp [hdisj c r hu]
  hit := by
    have hlit (c : Fin 64) (r : Fin 32) : (U c r && Framebuffer.pixel q.1 c r) = (U c r && Framebuffer.pixel p.1 c r) := by
      rw [hT.pixel]
      cases hu : U c r with
      | false => rfl
      | true => simp [hdisj c r hu]
    simp only [hU.hit, hT.hit, hlit, Bool.and_or_distrib_right, Bool.or_eq_true, exists_or, or_assoc]

/-! ### A bit, a row, a sprite -/

/-- The one pixel `(c, r)` as a set of targets. -/
def pointBit (c : Fin 64) (r : Fin 32) (c' : Fin 64) (r' : Fin 32) : Bool := decide (c = c' ∧ r = r')

/-- The targets of the bits below `k` of a sprite row at row coordinate `y` (R151). -/
def rowBit (row : Byte) (cx y k : Nat) (c : Fin 64) (r : Fin 32) : Bool :=
  decide (∃ j : Fin k, row.getLsbD j.val = true ∧ (cx + (7 - j.val)) % 64 = c.val ∧ y % 32 = r.val)

theorem drawBit_xored (c : Fin 64) (r : Fin 32) (p : Canvas) : Canvas.Xored (pointBit c r) p (drawBit c r p) where
  pixel c' r' := by
    simp only [drawBit, pointBit, Framebuffer.pixel_flip, eq_comm (a := c'), eq_comm (a := r')]
    by_cases h : c = c' ∧ r = r'
    · obtain ⟨rfl, rfl⟩ := h
      simp
    · simp [h]
  hit := by simp [drawBit, pointBit, and_assoc]

theorem rowBit_zero (row : Byte) (cx y : Nat) : rowBit row cx y 0 = fun _ _ => false := by
  funext c r
  simp [rowBit]

/-- The highest bit, drawn first, and the bits below it. -/
theorem rowBit_succ (row : Byte) (cx y k : Nat) :
    rowBit row cx y (k + 1) = fun c r =>
      (row.getLsbD k && pointBit (wrapColumn (cx + (7 - k))) (wrapRow y) c r) || rowBit row cx y k c r := by
  funext c r
  rw [Bool.eq_iff_iff]
  simp [rowBit, pointBit, wrapColumn, wrapRow, Fin.exists_fin_succ', Fin.ext_iff, or_comm]

/-- The eight bits of a row go to eight columns. -/
theorem rowBit_disjoint {row : Byte} {cx y k : Nat} (hk : k + 1 ≤ 8) {c : Fin 64} {r : Fin 32}
    (h : rowBit row cx y k c r = true) : pointBit (wrapColumn (cx + (7 - k))) (wrapRow y) c r = false := by
  obtain ⟨j, -, hcol, -⟩ := of_decide_eq_true h
  have hj := j.isLt
  refine decide_eq_false fun ⟨hc, _⟩ => ?_
  have hc' : (cx + (7 - k)) % 64 = c.val := congrArg Fin.val hc
  omega

theorem drawRow_xored (row : Byte) (cx y : Nat) {k : Nat} (hk : k ≤ 8) (p : Canvas) :
    Canvas.Xored (rowBit row cx y k) p (drawRow row cx y k p) := by
  induction k generalizing p with
  | zero =>
    rw [rowBit_zero, drawRow]
    exact .refl p
  | succ k ih =>
    rw [rowBit_succ, drawRow]
    cases hbit : row.getLsbD k with
    | false => simpa using ih (Nat.le_of_succ_le hk) p
    | true =>
      simpa using (drawBit_xored _ _ p).trans (ih (Nat.le_of_succ_le hk) _) fun _ _ => rowBit_disjoint hk

theorem spriteBit_zero (m : Memory) (base cx cy : Nat) : spriteBit m base 0 cx cy = fun _ _ => false := by
  funext c r
  simp [spriteBit]

/-- The first row, drawn first, and the rows after it. -/
theorem spriteBit_succ (m : Memory) (base n cx cy : Nat) :
    spriteBit m base (n + 1) cx cy = fun c r =>
      rowBit (m.byteAt base) cx cy 8 c r || spriteBit m (base + 1) n cx (cy + 1) c r := by
  funext c r
  rw [Bool.eq_iff_iff]
  simp [spriteBit, rowBit, Fin.exists_fin_succ, Nat.add_assoc, Nat.add_comm 1]

/-- The at most 32 rows of a sprite go to as many rows of the screen. -/
theorem spriteBit_disjoint {m : Memory} {base n cx cy : Nat} {row : Byte} (hn : n + 1 ≤ 32) {c : Fin 64} {r : Fin 32}
    (h : spriteBit m base n cx (cy + 1) c r = true) : rowBit row cx cy 8 c r = false := by
  obtain ⟨i, -, -, -, hrow⟩ := of_decide_eq_true h
  have hi := i.isLt
  refine decide_eq_false fun ⟨_, _, _, hr⟩ => ?_
  omega

/-- Drawing the `n` bytes at `base` flips what the sprite targets. -/
theorem drawRows_xored (m : Memory) (cx : Nat) {n : Nat} (hn : n ≤ 32) (base cy : Nat) (p : Canvas) :
    Canvas.Xored (spriteBit m base n cx cy) p (drawRows cx cy (m.bytesAt base n) p) := by
  induction n generalizing base cy p with
  | zero =>
    rw [spriteBit_zero, Memory.bytesAt, drawRows]
    exact .refl p
  | succ n ih =>
    rw [spriteBit_succ]
    exact (drawRow_xored _ cx cy le_rfl p).trans (ih (Nat.le_of_succ_le hn) _ _ _) fun _ _ => spriteBit_disjoint hn

/-! ### DRW (R150) -/

/-- The canvas after the sprite of DRW is drawn on the framebuffer. -/
def State.drawn (s : State) (x y : RegIdx) (n : Nibble) : Canvas :=
  drawRows (s.reg x).toNat (s.reg y).toNat (s.mem.bytesAt s.I.toNat n.toNat) (s.fb, false)

theorem State.drawn_xored (s : State) (x y : RegIdx) (n : Nibble) :
    Canvas.Xored (spriteBit s.mem s.I.toNat n.toNat (s.reg x).toNat (s.reg y).toNat) (s.fb, false) (s.drawn x y n) :=
  drawRows_xored s.mem _ (by omega) _ _ _

/-- The drawn canvas has a hit exactly when some lit pixel is targeted. -/
theorem State.hit_drawn (s : State) (x y : RegIdx) (n : Nibble) :
    (s.drawn x y n).2 =
      decide (∃ c r, (spriteBit s.mem s.I.toNat n.toNat (s.reg x).toNat (s.reg y).toNat c r && s.pixel c r) = true) := by
  rw [Bool.eq_iff_iff, (s.drawn_xored x y n).hit]
  simp [State.pixel]

/-- A read of `count` bytes is in range when there are none or the last of them exists (R48). -/
theorem readRangeOk_of_zero_or_le {base : Nat} {n : Nibble} (h : n = 0 ∨ base + n.toNat - 1 ≤ 0xFFE) :
    readRangeOk base n.toNat = true := by
  rcases h with rfl | hle
  · rfl
  · simp [readRangeOk, Config.memTop, hle]

/-- A framebuffer write, a flag write and a legal advance. -/
theorem advance_setFb_setFlag_of_canAdvance {s : State} (h : s.CanAdvance) (fb : Framebuffer) (p : Prop) [Decidable p] :
    advance ((s.setFb fb).setFlag (decide p)) =
      .next { s with fb := fb, V := s.V.set 15 (if p then 1 else 0), pc := s.pc + 2 } := by
  rw [advance_of_canAdvance (s := (s.setFb fb).setFlag (decide p)) h, ← flagByte_decide]
  rfl

/-- DRW whose sprite lies in memory is the drawing, the flag of the collision, and the advance. -/
theorem exec_drw_of_canAdvance {s : State} {x y : RegIdx} {n : Nibble} (hadv : s.CanAdvance)
    (hread : readRangeOk s.I.toNat n.toNat = true) :
    exec (.drw x y n) s = .next { s with
      fb := (s.drawn x y n).1
      V := s.V.set 15
        (if ∃ c r, (spriteBit s.mem s.I.toNat n.toNat (s.reg x).toNat (s.reg y).toNat c r && s.pixel c r) = true
          then 1 else 0)
      pc := s.pc + 2 } :=
  calc exec (.drw x y n) s
    _ = advance ((s.setFb (s.drawn x y n).1).setFlag (s.drawn x y n).2) := execDrw_of_ok hread
    _ = _ := by rw [State.hit_drawn, advance_setFb_setFlag_of_canAdvance hadv]

/-- Settles O29: the drawn canvas is the old framebuffer XOR the sprite's targets, and its hit is the collision. -/
theorem drawXorsTheSpriteAndReportsCollision : Obligations.DrawXorsTheSpriteAndReportsCollision :=
  fun s x y n hadv hrange =>
    ⟨_, exec_drw_of_canAdvance hadv (readRangeOk_of_zero_or_le hrange), (s.drawn_xored x y n).pixel, rfl⟩

end Sys2Proof.Machine
end

section
/-! SUPPORT. The writes of `I` (R141, R174, R175) and of the timers (R172, R173): one write of that element, then the advance. -/

namespace Sys2Proof.Machine

/-! ### The writes of `I` -/

/-- A write of `I` and a legal advance. -/
theorem advance_setI_of_canAdvance {s : State} (h : s.CanAdvance) (a : Word) :
    advance (s.setI a) = .next { s with I := a, pc := s.pc + 2 } :=
  advance_of_canAdvance (s := s.setI a) h

/-- A word and a byte added as numbers, then cut to 16 bits, is the wrapping sum (R174). -/
theorem ofNat_word_add_byte (a : Word) (b : Byte) : BitVec.ofNat 16 (a.toNat + b.toNat) = a + b.setWidth 16 := by
  rw [BitVec.ofNat_add, BitVec.ofNat_toNat, BitVec.ofNat_toNat, BitVec.setWidth_eq]

/-- The font starts at address 0 and a glyph has five bytes (R175). -/
theorem glyphAddr_eq (b : Byte) : glyphAddr b = BitVec.ofNat 16 (b.toNat % 16 * 5) := by
  simp only [glyphAddr, lowNibble, Config.fontBase, Config.glyphBytes, Nat.zero_add]

theorem exec_ldI (nnn : Addr12) (s : State) : exec (.ldI nnn) s = advance (s.setI (nnn.setWidth 16)) := by
  rw [← addrWord_eq]
  rfl

theorem exec_addI (x : RegIdx) (s : State) : exec (.addI x) s = advance (s.setI (s.I + (s.reg x).setWidth 16)) := by
  rw [← ofNat_word_add_byte]
  rfl

theorem exec_ldF (x : RegIdx) (s : State) :
    exec (.ldF x) s = advance (s.setI (BitVec.ofNat 16 ((s.reg x).toNat % 16 * 5))) := by
  rw [← glyphAddr_eq]
  rfl

/-- Settles O25: each instruction is one write of `I` and the advance. -/
theorem indexRegisterWrites : Obligations.IndexRegisterWrites := by
  intro s x nnn h
  rw [exec_ldI, exec_addI, exec_ldF]
  exact ⟨advance_setI_of_canAdvance h _, advance_setI_of_canAdvance h _, advance_setI_of_canAdvance h _⟩

/-! ### The timer writes -/

/-- A write of the delay timer and a legal advance. -/
theorem advance_setDt_of_canAdvance {s : State} (h : s.CanAdvance) (b : Byte) :
    advance (s.setDt b) = .next { s with dt := b, pc := s.pc + 2 } :=
  advance_of_canAdvance (s := s.setDt b) h

/-- A write of the sound timer and a legal advance. -/
theorem advance_setSt_of_canAdvance {s : State} (h : s.CanAdvance) (b : Byte) :
    advance (s.setSt b) = .next { s with st := b, pc := s.pc + 2 } :=
  advance_of_canAdvance (s := s.setSt b) h

theorem exec_ldDTVx (x : RegIdx) (s : State) : exec (.ldDTVx x) s = advance (s.setDt (s.reg x)) := rfl

theorem exec_ldSTVx (x : RegIdx) (s : State) : exec (.ldSTVx x) s = advance (s.setSt (s.reg x)) := rfl

/-- Settles O26: each instruction is one timer write and the advance. -/
theorem timerWrites : Obligations.TimerWrites := by
  intro s x h
  rw [exec_ldDTVx, exec_ldSTVx]
  exact ⟨advance_setDt_of_canAdvance h _, advance_setSt_of_canAdvance h _⟩

end Sys2Proof.Machine
end

section
/-! SUPPORT. A load that succeeds: what it answers, that its image fits in program memory, and what each byte then is (R231). -/

namespace Sys2Proof.Machine

/-! ### The load that succeeds (R231) -/

/-- A fresh machine takes an image that is not too large. -/
theorem load_of_length_le {image : List Byte} {s : State} (hp : s.phase = .fresh) (hlen : image.length ≤ Config.maxImage) :
    load image s = .next (.success, s.loaded image) := by
  rw [load, hp]
  exact if_pos hlen

/-- The largest image ends exactly where memory ends. -/
theorem image_fits {image : List Byte} (hlen : image.length ≤ Config.maxImage) :
    Config.progBase + image.length ≤ Config.memSize :=
  Nat.add_le_add_left hlen Config.progBase

/-- A loaded image stands in memory from `0x200` on. -/
theorem State.byteAt_loaded_image {s : State} {image : List Byte} (hm : s.mem.wf = true)
    (hlen : image.length ≤ Config.maxImage) (k : Fin image.length) :
    (s.loaded image).mem.byteAt (Config.progBase + k.val) = image[k.val] :=
  Memory.byteAt_putBytes_inside hm (image_fits hlen) k.isLt

/-- A load leaves every byte outside the image. -/
theorem State.byteAt_loaded_outside {s : State} {image : List Byte} (hm : s.mem.wf = true)
    (hlen : image.length ≤ Config.maxImage) {a : Nat} (ha : a < Config.progBase ∨ Config.progBase + image.length ≤ a) :
    (s.loaded image).mem.byteAt a = s.mem.byteAt a :=
  Memory.byteAt_putBytes_outside hm (image_fits hlen) ha

/-! ### The obligation -/

/-- Settles O55: the answer is the loaded state, which differs in memory and the phase, and its bytes are the image's or the
old ones. -/
theorem loadCopiesTheImageAndRuns : Obligations.LoadCopiesTheImageAndRuns := fun s image hp hm hlen =>
  ⟨s.loaded image, load_of_length_le hp hlen, rfl, State.byteAt_loaded_image hm hlen,
    fun _ => State.byteAt_loaded_outside hm hlen⟩

end Sys2Proof.Machine
end

section
/-! SUPPORT. The fields of a word built in each of the formats of R72, and a word rebuilt from its fields; then, family by
family, that the encoder and the decoder undo each other. -/

namespace Sys2Proof.Machine

/-! ### The fields of a word built from its fields (R61, R72) -/

theorem byte_toNat_lt (b : Byte) : b.toNat < 256 := b.isLt

theorem nibble_toNat_lt (n : Nibble) : n.toNat < 16 := n.isLt

theorem toNat_wordXYN {op n : Nat} (x y : RegIdx) (hop : op < 16) (hn : n < 16) :
    (wordXYN op x y n).toNat = op * 4096 + x.val * 256 + y.val * 16 + n := by
  have hx := x.isLt
  have hy := y.isLt
  rw [wordXYN, BitVec.toNat_ofNat]
  omega

theorem toNat_wordXKK {op kk : Nat} (x : RegIdx) (hop : op < 16) (hkk : kk < 256) :
    (wordXKK op x kk).toNat = op * 4096 + x.val * 256 + kk := by
  have hx := x.isLt
  rw [wordXKK, BitVec.toNat_ofNat]
  omega

theorem toNat_wordNNN {op : Nat} (nnn : Addr12) (hop : op < 16) : (wordNNN op nnn).toNat = op * 4096 + nnn.toNat := by
  have hn := nnn.isLt
  rw [wordNNN, BitVec.toNat_ofNat]
  omega

theorem fieldX_wordXYN {op n : Nat} (x y : RegIdx) (hop : op < 16) (hn : n < 16) : fieldX (wordXYN op x y n) = x := by
  have hx := x.isLt
  have hy := y.isLt
  apply Fin.ext
  simp only [fieldX, toNat_wordXYN x y hop hn]
  omega

theorem fieldY_wordXYN {op n : Nat} (x y : RegIdx) (hop : op < 16) (hn : n < 16) : fieldY (wordXYN op x y n) = y := by
  have hy := y.isLt
  apply Fin.ext
  simp only [fieldY, toNat_wordXYN x y hop hn]
  omega

theorem fieldN_wordXYN {op n : Nat} (x y : RegIdx) (hop : op < 16) (hn : n < 16) :
    fieldN (wordXYN op x y n) = BitVec.ofNat 4 n := by
  apply BitVec.eq_of_toNat_eq
  rw [fieldN_toNat, toNat_wordXYN x y hop hn, BitVec.toNat_ofNat]
  omega

theorem fieldX_wordXKK {op kk : Nat} (x : RegIdx) (hop : op < 16) (hkk : kk < 256) : fieldX (wordXKK op x kk) = x := by
  have hx := x.isLt
  apply Fin.ext
  simp only [fieldX, toNat_wordXKK x hop hkk]
  omega

theorem fieldKk_wordXKK {op kk : Nat} (x : RegIdx) (hop : op < 16) (hkk : kk < 256) :
    fieldKk (wordXKK op x kk) = BitVec.ofNat 8 kk := by
  apply BitVec.eq_of_toNat_eq
  rw [fieldKk_toNat, toNat_wordXKK x hop hkk, BitVec.toNat_ofNat]
  omega

theorem fieldNnn_wordNNN {op : Nat} (nnn : Addr12) (hop : op < 16) : fieldNnn (wordNNN op nnn) = nnn := by
  have hn := nnn.isLt
  apply BitVec.eq_of_toNat_eq
  rw [fieldNnn, toNat_wordNNN nnn hop, BitVec.toNat_ofNat]
  omega

/-! ### The catch-all rows, by number (R66) -/

theorem wellFormed_sys_iff {nnn : Addr12} :
    (Instr.sys nnn).wellFormed = true ↔ nnn.toNat ≠ 0x0E0 ∧ nnn.toNat ≠ 0x0EE := by
  simp [Instr.wellFormed, familyZeroOwn, ← BitVec.toNat_inj]

theorem wellFormed_nop8_iff {x y : RegIdx} {n : Nibble} :
    (Instr.nop8 x y n).wellFormed = true ↔ 7 < n.toNat ∧ n.toNat ≠ 0xE := by
  simp [Instr.wellFormed, familyEightOwn, ← BitVec.toNat_inj]

theorem wellFormed_nopE_iff {x : RegIdx} {kk : Byte} :
    (Instr.nopE x kk).wellFormed = true ↔ kk.toNat ≠ 0x9E ∧ kk.toNat ≠ 0xA1 := by
  simp [Instr.wellFormed, familyEOwn, ← BitVec.toNat_inj]

theorem wellFormed_nopF_iff {x : RegIdx} {kk : Byte} :
    (Instr.nopF x kk).wellFormed = true ↔ kk.toNat ∉ [0x07, 0x0A, 0x15, 0x18, 0x1E, 0x29, 0x33, 0x55, 0x65] := by
  simp [Instr.wellFormed, familyFOwn, ← BitVec.toNat_inj, and_assoc]

/-! ### Decoding an encoded instruction -/

theorem decodeFamily0_of_sys {nnn : Addr12} (h : (Instr.sys nnn).wellFormed = true) :
    decodeFamily0 (wordNNN 0 nnn) = .sys nnn := by
  obtain ⟨hcls, hret⟩ := wellFormed_sys_iff.mp h
  have hword : (wordNNN 0 nnn).toNat = nnn.toNat := by simp [toNat_wordNNN]
  simp [decodeFamily0, ← BitVec.toNat_inj, hword, hcls, hret, fieldNnn_wordNNN]

theorem decodeFamily8_of_nop8 {x y : RegIdx} {n : Nibble} (h : (Instr.nop8 x y n).wellFormed = true) :
    decodeFamily8 (wordXYN 8 x y n.toNat) = .nop8 x y n := by
  have hown := wellFormed_nop8_iff.mp h
  simp only [decodeFamily8, fieldX_wordXYN, fieldY_wordXYN, fieldN_wordXYN, nibble_toNat_lt n, Nat.reduceLT,
    BitVec.ofNat_toNat, BitVec.setWidth_eq]
  split
  case h_10 => rfl
  all_goals omega

theorem decodeFamilyE_of_nopE {x : RegIdx} {kk : Byte} (h : (Instr.nopE x kk).wellFormed = true) :
    decodeFamilyE (wordXKK 14 x kk.toNat) = .nopE x kk := by
  have hown := wellFormed_nopE_iff.mp h
  simp only [decodeFamilyE, fieldX_wordXKK, fieldKk_wordXKK, byte_toNat_lt kk, Nat.reduceLT, BitVec.ofNat_toNat,
    BitVec.setWidth_eq]
  split
  case h_3 => rfl
  all_goals omega

theorem decodeFamilyF_of_nopF {x : RegIdx} {kk : Byte} (h : (Instr.nopF x kk).wellFormed = true) :
    decodeFamilyF (wordXKK 15 x kk.toNat) = .nopF x kk := by
  have hown := wellFormed_nopF_iff.mp h
  simp only [decodeFamilyF, fieldX_wordXKK, fieldKk_wordXKK, byte_toNat_lt kk, Nat.reduceLT, BitVec.ofNat_toNat,
    BitVec.setWidth_eq]
  split
  case h_10 => rfl
  all_goals
    next hkk => simp [hkk] at hown

/-- A word built in the format of a row with no test of its own, or of a row that tests one number, gives its fields back; the
four catch-all rows need the instruction well formed. -/
theorem decodeWord_encode (i : Instr) (h : i.wellFormed = true) : decodeWord (encode i) = i := by
  cases i
  case cls => rfl
  case ret => rfl
  case sys nnn => simp [decodeWord, encode, Laws.fieldOp_wordNNN, decodeFamily0_of_sys h]
  case nop8 x y n =>
    simp [decodeWord, encode, Laws.fieldOp_wordXYN, nibble_toNat_lt n, decodeFamily8_of_nop8 h]
  case nopE x kk =>
    simp [decodeWord, encode, Laws.fieldOp_wordXKK, byte_toNat_lt kk, decodeFamilyE_of_nopE h]
  case nopF x kk =>
    simp [decodeWord, encode, Laws.fieldOp_wordXKK, byte_toNat_lt kk, decodeFamilyF_of_nopF h]
  all_goals
    simp [decodeWord, encode, decodeFamily8, decodeFamilyE, decodeFamilyF, Laws.fieldOp_wordXYN, Laws.fieldOp_wordXKK,
      Laws.fieldOp_wordNNN, fieldX_wordXYN, fieldY_wordXYN, fieldN_wordXYN, fieldX_wordXKK, fieldKk_wordXKK,
      fieldNnn_wordNNN, byte_toNat_lt, nibble_toNat_lt]

/-- Settles O2: an instruction's bytes are its word's, and the word decodes to the instruction. -/
theorem decodeInvertsEncode : Obligations.DecodeInvertsEncode := by
  intro i rest h
  rw [encodeBytes, List.cons_append, List.cons_append, List.nil_append, decode_bytes_of_word, decodeWord_encode i h]

/-! ### Encoding a decoded word -/

theorem wordXYN_of_fields {w : Word} {op n : Nat} (hop : fieldOp w = op) (hn : (fieldN w).toNat = n) :
    wordXYN op (fieldX w) (fieldY w) n = w := by
  have hw := w.isLt
  apply BitVec.eq_of_toNat_eq
  subst hop hn
  rw [fieldN_toNat, wordXYN, BitVec.toNat_ofNat]
  simp only [fieldOp, fieldX, fieldY]
  omega

theorem wordXKK_of_fields {w : Word} {op kk : Nat} (hop : fieldOp w = op) (hkk : (fieldKk w).toNat = kk) :
    wordXKK op (fieldX w) kk = w := by
  have hw := w.isLt
  apply BitVec.eq_of_toNat_eq
  subst hop hkk
  rw [fieldKk_toNat, wordXKK, BitVec.toNat_ofNat]
  simp only [fieldOp, fieldX]
  omega

theorem wordNNN_of_fields {w : Word} {op : Nat} (hop : fieldOp w = op) : wordNNN op (fieldNnn w) = w := by
  have hw := w.isLt
  apply BitVec.eq_of_toNat_eq
  subst hop
  rw [wordNNN, fieldNnn, BitVec.toNat_ofNat, BitVec.toNat_ofNat]
  simp only [fieldOp]
  omega

/-- The word with its lowest nibble made 0, as the canonical encoding of families 5 and 9 has it (R65). -/
theorem wordXYN_zero_of_fields {w : Word} {op : Nat} (hop : fieldOp w = op) :
    wordXYN op (fieldX w) (fieldY w) 0 = w &&& 0xFFF0#16 := by
  have hw := w.isLt
  have hmask : (w &&& 0xFFF0#16).toNat = w.toNat / 16 * 16 := by
    rw [show 0xFFF0#16 = BitVec.allOnes 16 <<< 4 by decide, ← BitVec.shiftLeft_ushiftRight, BitVec.toNat_shiftLeft,
      BitVec.toNat_ushiftRight, Nat.shiftRight_eq_div_pow, Nat.shiftLeft_eq]
    omega
  apply BitVec.eq_of_toNat_eq
  subst hop
  rw [hmask, wordXYN, BitVec.toNat_ofNat]
  simp only [fieldOp, fieldX, fieldY]
  omega

theorem encode_decodeFamily0 {w : Word} (hop : fieldOp w = 0) : encode (decodeFamily0 w) = w := by
  unfold decodeFamily0
  split
  next hcls => exact hcls.symm
  next =>
    split
    next hret => exact hret.symm
    next => exact wordNNN_of_fields hop

theorem encode_decodeFamily8 {w : Word} (hop : fieldOp w = 8) : encode (decodeFamily8 w) = w := by
  unfold decodeFamily8
  split
  case h_10 => exact wordXYN_of_fields hop rfl
  all_goals
    next hn => exact wordXYN_of_fields hop hn

theorem encode_decodeFamilyE {w : Word} (hop : fieldOp w = 14) : encode (decodeFamilyE w) = w := by
  unfold decodeFamilyE
  split
  case h_3 => exact wordXKK_of_fields hop rfl
  all_goals
    next hkk => exact wordXKK_of_fields hop hkk

theorem encode_decodeFamilyF {w : Word} (hop : fieldOp w = 15) : encode (decodeFamilyF w) = w := by
  unfold decodeFamilyF
  split
  case h_10 => exact wordXKK_of_fields hop rfl
  all_goals
    next hkk => exact wordXKK_of_fields hop hkk

theorem encode_decodeWord (w : Word) :
    encode (decodeWord w) = if fieldOp w = 5 ∨ fieldOp w = 9 then w &&& 0xFFF0#16 else w := by
  unfold decodeWord
  split
  case h_6 hop | h_10 hop =>
    rw [if_pos (by omega)]
    exact wordXYN_zero_of_fields hop
  case h_16 =>
    have hlt := fieldOp_lt w
    simp only [imp_false] at *
    rw [if_neg (by omega)]
    exact encode_decodeFamilyF (by omega)
  all_goals rw [if_neg (by omega)]
  case h_1 hop => exact encode_decodeFamily0 hop
  case h_9 hop => exact encode_decodeFamily8 hop
  case h_15 hop => exact encode_decodeFamilyE hop
  case h_2 hop | h_3 hop | h_11 hop | h_12 hop => exact wordNNN_of_fields hop
  case h_4 hop | h_5 hop | h_7 hop | h_8 hop | h_13 hop => exact wordXKK_of_fields hop rfl
  case h_14 hop => exact wordXYN_of_fields hop rfl

/-! ### A decoded word is well formed

A catch-all row is reached only when every test before it has failed; `imp_false` gives those failures the form `¬`. -/

theorem wellFormed_decodeFamily0 {w : Word} (hop : fieldOp w = 0) : (decodeFamily0 w).wellFormed = true := by
  unfold decodeFamily0
  split
  next => rfl
  next hcls =>
    split
    next => rfl
    next hret =>
      rw [← BitVec.toNat_inj, BitVec.toNat_ofNat] at hcls hret
      rw [wellFormed_sys_iff, fieldNnn, BitVec.toNat_ofNat]
      rw [fieldOp] at hop
      omega

theorem wellFormed_decodeFamily8 (w : Word) : (decodeFamily8 w).wellFormed = true := by
  unfold decodeFamily8
  split
  case h_10 =>
    simp only [imp_false] at *
    exact wellFormed_nop8_iff.mpr (by omega)
  all_goals rfl

theorem wellFormed_decodeFamilyE (w : Word) : (decodeFamilyE w).wellFormed = true := by
  unfold decodeFamilyE
  split
  case h_3 =>
    simp only [imp_false] at *
    exact wellFormed_nopE_iff.mpr (by omega)
  all_goals rfl

theorem wellFormed_decodeFamilyF (w : Word) : (decodeFamilyF w).wellFormed = true := by
  unfold decodeFamilyF
  split
  case h_10 =>
    simp only [imp_false] at *
    exact wellFormed_nopF_iff.mpr (by simp [*])
  all_goals rfl

theorem wellFormed_decodeWord (w : Word) : (decodeWord w).wellFormed = true := by
  unfold decodeWord
  split
  case h_1 hop => exact wellFormed_decodeFamily0 hop
  case h_9 => exact wellFormed_decodeFamily8 w
  case h_15 => exact wellFormed_decodeFamilyE w
  case h_16 => exact wellFormed_decodeFamilyF w
  all_goals rfl

/-- Settles O3, along the decoder's first dispatch. -/
theorem encodeInvertsDecodeButIgnoredNibble : Obligations.EncodeInvertsDecodeButIgnoredNibble := fun w =>
  ⟨encode_decodeWord w, wellFormed_decodeWord w⟩

/-- Settles O5: closed words, decoded by computation. -/
theorem sampleWordsDecodeAsTheMapSays : Obligations.SampleWordsDecodeAsTheMapSays := by
  unfold Obligations.SampleWordsDecodeAsTheMapSays
  decide

end Sys2Proof.Machine
end

section
/-! SUPPORT. What an instruction does to the call stack; then that every operation of the host keeps the invariant of R89, that
a halted machine stays halted and a fault stays recorded until `Reset`, and that a run is its beginning and its end. -/

namespace Sys2Proof.Machine

/-! ### The call stack (R15) -/

/-- What a step can leave of the call stack: the slots as they were and no more of them in use, or the pc pushed. -/
def StackStep (s t : State) : Prop :=
  (t.stack = s.stack ∧ t.sp.val ≤ s.sp.val) ∨
    ∃ room : s.sp.val < 16, t.stack = s.stack.set s.sp.val s.pc room ∧ t.sp.val = s.sp.val + 1

theorem StackStep.of_eq {s t : State} (hstack : t.stack = s.stack) (hsp : t.sp = s.sp) : StackStep s t :=
  .inl ⟨hstack, by rw [hsp]⟩

/-- The write of the pc, legal or not, leaves the call stack. -/
theorem finish_stack {a : Nat} {s t : State} (h : finish a s = .next t) : t.stack = s.stack ∧ t.sp = s.sp := by
  rcases finish_cases h with ⟨-, rfl⟩ | ⟨-, rfl⟩ <;> exact ⟨rfl, rfl⟩

/-- RET only lowers the stack pointer (R101). -/
theorem exec_ret_stackStep {s t : State} (h : exec .ret s = .next t) : StackStep s t := by
  by_cases hpos : 0 < s.sp.val
  · obtain ⟨hstack, hsp⟩ := finish_stack ((execRet_of_pos hpos).symm.trans h)
    exact .inl ⟨hstack, by rw [hsp]; exact Nat.sub_le _ _⟩
  · obtain rfl := Host.Outcome.next.inj ((execRet_of_empty (by omega)).symm.trans h)
    exact .of_eq rfl rfl

/-- CALL pushes its own address or, on a full stack, leaves the stack (R104). -/
theorem exec_call_stackStep {nnn : Addr12} {s t : State} (h : exec (.call nnn) s = .next t) : StackStep s t := by
  by_cases hroom : s.sp.val < 16
  · obtain ⟨hstack, hsp⟩ := finish_stack ((execCall_of_room nnn hroom).symm.trans h)
    exact .inr ⟨hroom, hstack, by rw [hsp]⟩
  · obtain rfl := Host.Outcome.next.inj ((execCall_of_full nnn (by omega)).symm.trans h)
    exact .of_eq rfl rfl

/-- Only CALL and RET touch the call stack, and only CALL its slots. -/
theorem exec_stack_frame {i : Instr} {s t : State} (h : exec i s = .next t) :
    ((∀ nnn, i ≠ .call nnn) → t.stack = s.stack) ∧ ((∀ nnn, i ≠ .call nnn) → i ≠ .ret → t.sp = s.sp) := by
  rcases exec_next h with ⟨k, -, rfl⟩ | ⟨n, s', -, heff, -, ⟨-, rfl⟩ | ⟨-, rfl⟩⟩
  · exact ⟨fun _ => rfl, fun _ _ => rfl⟩
  · exact ⟨heff.stack, heff.sp⟩
  · exact ⟨heff.stack, heff.sp⟩

/-- Settles O43: the frame of the call stack. -/
theorem onlyCallAndReturnTouchTheStack : Obligations.OnlyCallAndReturnTouchTheStack := fun _ _ _ => exec_stack_frame

theorem exec_stackStep {i : Instr} {s t : State} (h : exec i s = .next t) : StackStep s t := by
  by_cases hret : i = .ret
  · exact exec_ret_stackStep (hret ▸ h)
  by_cases hcall : ∃ nnn, i = .call nnn
  · obtain ⟨nnn, rfl⟩ := hcall
    exact exec_call_stackStep h
  · obtain ⟨hstack, hsp⟩ := exec_stack_frame h
    have hne (nnn : Addr12) : i ≠ .call nnn := fun e => hcall ⟨nnn, e⟩
    exact .of_eq (hstack hne) (hsp hne hret)

theorem execWith_stackStep {rnd : Byte} {i : Instr} {s t : State} (h : execWith rnd i s = .next t) : StackStep s t := by
  by_cases hi : ∃ x kk, i = .rnd x kk
  · obtain ⟨x, kk, rfl⟩ := hi
    obtain ⟨hstack, hsp⟩ := finish_stack h
    exact .of_eq hstack hsp
  · exact exec_stackStep (execWith_eq_exec (fun x kk e => hi ⟨x, kk, e⟩) ▸ h)

theorem stepWith_stackStep {rnd : Byte} {s t : State} (h : stepWith rnd s = .next t) : StackStep s t := by
  rcases cycleWith_cases (execWith rnd) s with ⟨-, hs⟩ | ⟨-, -, hs⟩ | ⟨-, w, -, hs⟩
  · obtain rfl := Host.Outcome.next.inj (hs.symm.trans h)
    exact .of_eq rfl rfl
  · obtain rfl := Host.Outcome.next.inj (hs.symm.trans h)
    exact .of_eq rfl rfl
  · exact execWith_stackStep (hs.symm.trans h)

/-- The saved values stay legal, since the one value ever pushed is the pc. -/
theorem StackStep.saved_inRange {s t : State} (h : StackStep s t) (hpc : InRange s.pc.toNat)
    (hsaved : ∀ k : Fin 16, k.val < s.sp.val → InRange s.stack[k.val].toNat) :
    ∀ k : Fin 16, k.val < t.sp.val → InRange t.stack[k.val].toNat := by
  intro k hk
  rcases h with ⟨hstack, hsp⟩ | ⟨room, hstack, hsp⟩
  · rw [hstack]
    exact hsaved k (hk.trans_le hsp)
  · rw [hstack, Vector.getElem_set]
    split
    · exact hpc
    · exact hsaved k (by omega)

/-! ### The invariant (R89) -/

/-- No instruction's effect leaves memory out of its canonical form. -/
theorem Effect.mem_wf {i : Instr} {s s' : State} (e : Effect i s s') (h : s.mem.wf = true) : s'.mem.wf = true := by
  rcases e.mem with hm | ⟨bs, -, hok, hm⟩
  · rw [hm, h]
  · exact Memory.wf_writeBytes h (Memory.writeBytes_eq_some.mpr ⟨hok, hm⟩)

/-- No instruction's effect halts the machine. -/
theorem Effect.phase_ne_halted {i : Instr} {s s' : State} (e : Effect i s s') (h : s.phase ≠ .halted) :
    s'.phase ≠ .halted := by
  rcases e.phase with hp | ⟨x, -, hp, -⟩
  · rwa [hp]
  · simp [hp]

/-- A fault raised keeps the invariant. -/
theorem State.Inv.raise {s : State} (h : s.Inv) {k : FaultKind} (hk : k ≠ .none) : (s.raise k).Inv :=
  { h with fault_none_iff := by simp [hk] }

/-- An effect and then the write of the pc keep the invariant, when the call stack stays legal. -/
theorem Effect.inv_of_pc_written {i : Instr} {s s' t : State} {n : Nat} (e : Effect i s s') (h : s.Inv)
    (hrun : s.phase ≠ .halted)
    (ht : (InRange n ∧ t = s'.setPc (BitVec.ofNat 16 n)) ∨ (¬InRange n ∧ t = s'.raise .controlFlowFault))
    (hsaved : ∀ k : Fin 16, k.val < t.sp.val → InRange t.stack[k.val].toNat) : t.Inv := by
  have hfont (a : Nat) (ha : a ≤ Config.fontEnd) : s'.mem.byteAt a = Config.resetByte a :=
    (e.byteAt_below_progBase h.mem_wf (Nat.lt_succ_of_le ha)).trans (h.font_intact a ha)
  rcases ht with ⟨hn, rfl⟩ | ⟨-, rfl⟩
  · have hfault : s'.fault = .none := e.fault.trans (h.fault_none_iff.mpr hrun)
    exact {
      pc_inRange := by rw [State.setPc_pc, toNat_ofNat_of_inRange hn]; exact hn
      saved_inRange := hsaved
      fault_none_iff := iff_of_true hfault (e.phase_ne_halted hrun)
      font_intact := hfont
      mem_wf := e.mem_wf h.mem_wf }
  · exact {
      pc_inRange := by rw [State.raise_pc, e.pc]; exact h.pc_inRange
      saved_inRange := hsaved
      fault_none_iff := by simp
      font_intact := hfont
      mem_wf := e.mem_wf h.mem_wf }

theorem stepWith_keeps_inv {rnd : Byte} {s t : State} (h : s.Inv) (hs : stepWith rnd s = .next t) : t.Inv := by
  have hsaved := (stepWith_stackStep hs).saved_inRange h.pc_inRange h.saved_inRange
  rcases stepWith_next hs with ⟨-, rfl⟩ | ⟨-, k, hk, rfl⟩ | ⟨hp, w, n, s', -, heff, ht⟩
  · exact h
  · exact h.raise hk
  · exact heff.inv_of_pc_written h (by simp [hp]) ht hsaved

/-- Settles O48: no value is saved and no byte is listed, and the rest is computed. -/
theorem resetMeetsTheInvariant : Obligations.ResetMeetsTheInvariant where
  pc_inRange := by decide
  saved_inRange _ hk := absurd hk (Nat.not_lt_zero _)
  fault_none_iff := by decide
  font_intact _ _ := rfl
  mem_wf := reset_mem_wf

theorem resetOp_inv (s : State) : (resetOp s).Inv := { resetMeetsTheInvariant with }

theorem loadOp_keeps_inv {image : List Byte} {s t : State} (h : s.Inv) (hl : loadOp image s = .next t) : t.Inv := by
  obtain ⟨-, hfont⟩ := loadOp_frame h.mem_wf hl
  obtain ⟨hp, ⟨hlen, rfl⟩ | ⟨-, rfl⟩⟩ := loadOp_next hl
  · exact { h with
      fault_none_iff := iff_of_true (h.fault_none_iff.mpr (by simp [hp])) (by simp)
      font_intact := fun a ha => (hfont a (Nat.lt_succ_of_le ha)).trans (h.font_intact a ha)
      mem_wf := Memory.wf_putBytes h.mem_wf (image_fits hlen) }
  · exact h.raise (by decide)

theorem advanceTimers_keeps_inv {n : Nat} {s t : State} (h : s.Inv) (ha : advanceTimers n s = .next t) : t.Inv := by
  rw [advanceTimers_frame ha]
  exact { h with }

theorem keyWrite_keeps_inv {k : KeyId} {b : Bool} {s : State} (h : s.Inv) : (keyWrite k b s).Inv := by
  rcases keyWrite_cases (rfl : keyWrite k b s = _) with ⟨⟨-, -, hwait⟩, ht⟩ | ⟨-, ht⟩
  · rw [ht]
    exact { h with fault_none_iff := iff_of_true (h.fault_none_iff.mpr (by simp [hwait])) (by simp) }
  · rw [ht]
    exact { h with }

theorem perform_keeps_inv {op : HostOp} {s t : State} (h : s.Inv) (hop : perform op s = .next t) : t.Inv := by
  cases op with
  | reset =>
    obtain rfl := Host.Outcome.next.inj hop
    exact resetOp_inv s
  | load image => exact loadOp_keeps_inv h hop
  | step rnd => exact stepWith_keeps_inv h hop
  | advanceTimers n => exact advanceTimers_keeps_inv h hop
  | keyWrite k b =>
    obtain rfl := Host.Outcome.next.inj hop
    exact keyWrite_keeps_inv h

/-- Settles O49: the step is `Step(rnd)` with the drawn byte. -/
theorem stepKeepsTheInvariant : Obligations.StepKeepsTheInvariant := fun s _ h hs =>
  stepWith_keeps_inv h ((step_eq_stepWith_randomByte s).symm.trans hs)

/-- Settles O50, operation by operation. -/
theorem everyOperationKeepsTheInvariant : Obligations.EveryOperationKeepsTheInvariant := fun _ _ _ => perform_keeps_inv

/-! ### Sequences of operations (R239) -/

theorem performAll_cons {op : HostOp} {ops : List HostOp} {s t : State} (h : performAll (op :: ops) s = .next t) :
    ∃ u, perform op s = .next u ∧ performAll ops u = .next t := by
  rw [performAll] at h
  split at h
  · next u hu => exact ⟨u, hu, h⟩
  · cases h
  · cases h

/-- What each operation of a sequence keeps, the sequence keeps. -/
theorem performAll_keeps {P : State → Prop} {ops : List HostOp} {s t : State}
    (hop : ∀ op ∈ ops, ∀ u v : State, P u → perform op u = .next v → P v) (hs : P s)
    (h : performAll ops s = .next t) : P t := by
  induction ops generalizing s with
  | nil =>
    obtain rfl := Host.Outcome.next.inj h
    exact hs
  | cons op ops ih =>
    obtain ⟨u, hu, h⟩ := performAll_cons h
    exact ih (fun op' hmem => hop op' (.tail op hmem)) (hop op (.head ops) s u hs hu) h

/-- A sequence that has a meaning throughout is its beginning and then its end. -/
theorem performAll_of_append {before after : List HostOp} {s t : State} (h : performAll (before ++ after) s = .next t) :
    ∃ u, performAll before s = .next u ∧ performAll after u = .next t := by
  induction before generalizing s with
  | nil => exact ⟨s, rfl, h⟩
  | cons op before ih =>
    obtain ⟨v, hv, h⟩ := performAll_cons h
    obtain ⟨u, hu, h⟩ := ih h
    exact ⟨u, by rw [performAll, hv]; exact hu, h⟩

/-- Settles O51: the invariant holds at reset and every operation keeps it. -/
theorem reachableStatesMeetTheInvariant : Obligations.ReachableStatesMeetTheInvariant := fun _ ⟨_, h⟩ =>
  performAll_keeps (fun _ _ _ _ => perform_keeps_inv) resetMeetsTheInvariant h

/-! ### A halted machine (R204) -/

/-- `t` is `s` but for the keys, the timers and the hidden timer state. -/
def State.AgreeButKeysAndTimers (s t : State) : Prop :=
  t = { s with keys := t.keys, dt := t.dt, st := t.st, tValid := t.tValid, tLast := t.tLast, tRem3 := t.tRem3 }

theorem State.AgreeButKeysAndTimers.refl (s : State) : s.AgreeButKeysAndTimers s := rfl

theorem State.AgreeButKeysAndTimers.trans {s t u : State} (hst : s.AgreeButKeysAndTimers t)
    (htu : t.AgreeButKeysAndTimers u) :
    s.AgreeButKeysAndTimers u := by
  rw [State.AgreeButKeysAndTimers, htu, hst]

theorem perform_agrees_of_halted {op : HostOp} {s t : State} (hp : s.phase = .halted) (hne : op ≠ .reset)
    (h : perform op s = .next t) : s.AgreeButKeysAndTimers t := by
  cases op with
  | reset => exact absurd rfl hne
  | load image =>
    obtain ⟨hfresh, -⟩ := loadOp_next h
    simp [hp] at hfresh
  | step rnd =>
    rcases stepWith_next h with ⟨-, rfl⟩ | ⟨hrun, -⟩ | ⟨hrun, -⟩
    · rfl
    · simp [hp] at hrun
    · simp [hp] at hrun
  | advanceTimers n =>
    rw [advanceTimers_frame h]
    rfl
  | keyWrite k b =>
    rcases keyWrite_cases (Host.Outcome.next.inj h) with ⟨⟨-, -, hwait⟩, -⟩ | ⟨-, rfl⟩
    · simp [hp] at hwait
    · rfl

/-- Settles O39: of each operation but `Reset`, so of any sequence of them. -/
theorem haltedUntilReset : Obligations.HaltedUntilReset := by
  intro ops s t hp hno h
  refine performAll_keeps (P := s.AgreeButKeysAndTimers) (fun op hmem u v hu hv => ?_) (.refl s) h
  have hhalt : u.phase = .halted := by rw [hu]; exact hp
  exact hu.trans (perform_agrees_of_halted hhalt (fun e => hno (e ▸ hmem)) hv)

/-! ### A fault recorded (R202) -/

theorem perform_keeps_fault {op : HostOp} {s t : State} (hne : op ≠ .reset) (hf : s.fault ≠ .none)
    (h : perform op s = .next t) : t.fault ≠ .none := by
  cases op with
  | reset => exact absurd rfl hne
  | load image =>
    obtain ⟨-, ⟨-, rfl⟩ | ⟨-, rfl⟩⟩ := loadOp_next h
    · exact hf
    · simp
  | step rnd =>
    rcases stepWith_next h with ⟨-, rfl⟩ | ⟨-, k, hk, rfl⟩ | ⟨-, w, n, s', -, heff, ⟨-, rfl⟩ | ⟨-, rfl⟩⟩
    · exact hf
    · exact hk
    · exact heff.fault ▸ hf
    · simp
  | advanceTimers n =>
    rw [advanceTimers_frame h]
    exact hf
  | keyWrite k b =>
    obtain ⟨hframe, -⟩ := keyWrite_frame (Host.Outcome.next.inj h)
    rw [hframe]
    exact hf

/-- Settles O52: a fault recorded at the end of the beginning would still be recorded at the end. -/
theorem safeRunsHaveSafeBeginnings : Obligations.SafeRunsHaveSafeBeginnings := by
  intro before after hno ⟨t, hrun, hsafe⟩
  obtain ⟨u, hbefore, hafter⟩ := performAll_of_append hrun
  refine ⟨u, hbefore, by_contra fun hf => ?_⟩
  exact performAll_keeps (P := fun v => v.fault ≠ .none) (fun op hmem _ _ => perform_keeps_fault fun e => hno (e ▸ hmem))
    hf hafter hsafe

end Sys2Proof.Machine
end

section
/-! SUPPORT. The step around an instruction's meaning: the gate, the fetch of a word placed or stored at the pc, that a meaning
always answers, and what a halt leaves (R80 to R82, R42, R202). -/

namespace Sys2Proof.Machine

/-! ### The gate and the fetch (R80, R81) -/

theorem step_of_not_running {s : State} (hp : s.phase ≠ .running) : step s = .next s := by
  rcases cycleWith_cases exec s with ⟨-, hs⟩ | ⟨hrun, -⟩ | ⟨hrun, -⟩
  · exact hs
  · exact absurd hrun hp
  · exact absurd hrun hp

theorem step_of_fetch_none {s : State} (hp : s.phase = .running) (hw : s.fetchWord = none) :
    step s = .next (s.raise .memoryFault) := by
  rw [step, cycleWith, hp]
  simp only [fetchAndRun, hw, raiseFault_eq]

theorem step_of_fetch_some {s : State} {w : Word} (hp : s.phase = .running) (hw : s.fetchWord = some w) :
    step s = exec (decodeWord w) s := by
  rw [step, cycleWith, hp]
  simp only [fetchAndRun, hw]

/-- Settles O6: the gate, the fetch that fails and the fetch that succeeds. -/
theorem stepGatesFetchesAndExecutes : Obligations.StepGatesFetchesAndExecutes := fun _ =>
  ⟨step_of_not_running, step_of_fetch_none, fun _ => step_of_fetch_some⟩

theorem Memory.read_eq_some {m : Memory} {a : Nat} {b : Byte} :
    m.read a = some b ↔ a ≤ Config.memTop ∧ b = m.byteAt a := by
  unfold Memory.read
  split
  · next h => simp [h, eq_comm]
  · next h => simp [h]

/-- Settles O7: the two bytes read are the word fetched, and every word decodes to a well-formed instruction. -/
theorem stepRunsTheDecodedInstruction : Obligations.StepRunsTheDecodedInstruction := by
  intro s hi lo i hp hhi hlo hdec
  obtain ⟨-, rfl⟩ := Memory.read_eq_some.mp hhi
  obtain ⟨htop, rfl⟩ := Memory.read_eq_some.mp hlo
  obtain ⟨rfl, -⟩ := Decoded.instr.inj hdec
  exact ⟨wellFormed_decodeWord _, step_of_fetch_some hp (State.fetchWord_eq_some.mpr ⟨htop, rfl⟩)⟩

/-- Settles O10: both gate and fetch alike, and the meanings agree. -/
theorem stepIsStepWithTheDrawnByte : Obligations.StepIsStepWithTheDrawnByte := step_eq_stepWith_randomByte

/-! ### A word placed at the pc (R231) -/

/-- A row of 16 bits is numbered by its word. -/
@[simp] theorem tableWord_toNat (w : Word) : tableWord 16 w.toNat = w := by
  rw [tableWord, Nat.mod_eq_of_lt w.isLt, BitVec.ofNat_toNat, BitVec.setWidth_eq]

theorem State.placeWord_of_le {s : State} {w : Word} (hpc : s.pc.toNat + 1 ≤ Config.memTop) :
    s.placeWord w =
      { s with mem := s.mem.putBytes s.pc.toNat [highByte w, lowByte w], phase := .running, fault := .none } :=
  if_pos hpc

/-- The word placed is the word fetched: its bytes are read back and make it again. -/
theorem State.fetchWord_placeWord {s : State} {w : Word} (hm : s.mem.wf = true) (hpc : s.pc.toNat + 1 ≤ Config.memTop) :
    (s.placeWord w).fetchWord = some w := by
  have hend : s.pc.toNat + [highByte w, lowByte w].length ≤ Config.memSize := by
    simp only [Config.memTop, Config.memSize, List.length_cons, List.length_nil] at hpc ⊢
    omega
  have hhi := Memory.byteAt_putBytes_inside hm hend (k := 0) (by simp)
  have hlo := Memory.byteAt_putBytes_inside hm hend (k := 1) (by simp)
  rw [State.placeWord_of_le hpc, State.fetchWord_eq_some]
  refine ⟨hpc, ?_⟩
  simp only [Nat.add_zero] at hhi
  rw [hhi, hlo]
  exact (wordOfBytes_highByte_lowByte w).symm

/-- Settles O11: the machine runs, and fetches the word placed. -/
theorem placedWordIsWhatTheStepRuns : Obligations.PlacedWordIsWhatTheStepRuns := by
  intro s w hm hpc
  rw [State.withFetchWord, tableWord_toNat]
  refine step_of_fetch_some ?_ (State.fetchWord_placeWord hm hpc)
  rw [State.placeWord_of_le hpc]

/-! ### The outcome of a step (R66, R202) -/

theorem exec_isNext (i : Instr) (s : State) : ∃ t, exec i s = .next t := by
  rcases exec_cases i s with ⟨k, -, he⟩ | ⟨n, s', he, -⟩
  · exact ⟨_, he⟩
  · rw [he]
    exact finish_isNext n s'

/-- Settles O9: the gate and a failed fetch answer a next state, and so does every meaning. -/
theorem stepAlwaysAnswersNext : Obligations.StepAlwaysAnswersNext := by
  intro s
  rcases cycleWith_cases exec s with ⟨-, hs⟩ | ⟨-, -, hs⟩ | ⟨-, w, -, hs⟩
  · exact ⟨s, hs⟩
  · exact ⟨_, hs⟩
  · rw [step, hs]
    exact exec_isNext _ s

/-- Settles O38: an effect alone never halts, so a halt is a fault raised, and a raise keeps the pc it finds. -/
theorem haltKeepsTheFaultingPc : Obligations.HaltKeepsTheFaultingPc := by
  intro s t hp h hhalt
  rcases stepWith_next ((step_eq_stepWith_randomByte s).symm.trans h) with
    ⟨hidle, -⟩ | ⟨-, k, hk, rfl⟩ | ⟨-, w, n, s', -, heff, ⟨-, rfl⟩ | ⟨-, rfl⟩⟩
  · exact absurd hp hidle
  · exact ⟨rfl, hk⟩
  · exact absurd hhalt (heff.phase_ne_halted (by simp [hp]))
  · exact ⟨heff.pc, by simp⟩

end Sys2Proof.Machine
end

section
/-! SUPPORT. What the write of the pc leaves, so what each meaning leaves of the registers, the flag, memory and the rest
(R10 to R28, R47); and that a meaning which does not redirect control does not read the pc before it advances (R85). -/

namespace Sys2Proof.Machine

/-! ### Frames -/

/-- Settles O40: a raise and the write of the pc keep every register, and the effect all but its destinations. -/
theorem onlyDestinationRegistersChange : Obligations.OnlyDestinationRegistersChange := by
  intro s t i r h hr
  rcases exec_next h with ⟨k, -, rfl⟩ | ⟨n, s', -, heff, -, ⟨-, rfl⟩ | ⟨-, rfl⟩⟩
  · rfl
  · exact heff.regs r hr
  · exact heff.regs r hr

/-- What an effect leaves of memory (R41, R47). -/
theorem Effect.mem_frame {i : Instr} {s s' : State} (e : Effect i s s') (hm : s.mem.wf = true) :
    (i.storedBytes = 0 → s'.mem = s.mem) ∧
      ∀ a, a < s.I.toNat ∨ s.I.toNat + i.storedBytes ≤ a → s'.mem.byteAt a = s.mem.byteAt a := by
  rcases e.mem with heq | ⟨bs, hlen, hok, heq⟩
  · exact ⟨fun _ => heq, fun _ _ => by rw [heq]⟩
  · rw [heq, ← hlen]
    refine ⟨fun hzero => ?_, fun a ha => Memory.byteAt_putBytes_of_writeRangeOk hm hok ha⟩
    rw [List.length_eq_zero_iff.mp hzero, Memory.putBytes]

/-- Settles O42: a raise and the write of the pc keep memory. -/
theorem onlyStoredBytesChange : Obligations.OnlyStoredBytesChange := by
  intro s t i hm h
  rcases exec_next h with ⟨k, -, rfl⟩ | ⟨n, s', -, heff, -, ⟨-, rfl⟩ | ⟨-, rfl⟩⟩
  · exact ⟨fun _ => rfl, fun _ _ => rfl⟩
  · exact heff.mem_frame hm
  · exact heff.mem_frame hm

/-- Settles O44: a raise and the write of the pc keep all these, and the effect each but for its writers. -/
theorem onlyNamedInstructionsWriteTheRest : Obligations.OnlyNamedInstructionsWriteTheRest := by
  intro s t i h
  rcases exec_next h with ⟨k, -, rfl⟩ | ⟨n, s', -, heff, -, ⟨-, rfl⟩ | ⟨-, rfl⟩⟩
  · simp
  · exact ⟨heff.index, heff.fb, heff.dt, heff.st, heff.awaitX, heff.draws, heff.keys⟩
  · exact ⟨heff.index, heff.fb, heff.dt, heff.st, heff.awaitX, heff.draws, heff.keys⟩

/-! ### The flag (R11) -/

/-- The sequential advance keeps every register. -/
theorem advance_reg {s t : State} (h : advance s = .next t) (r : RegIdx) : t.reg r = s.reg r := by
  rcases advance_cases h with ⟨-, rfl⟩ | ⟨-, rfl⟩ <;> rfl

theorem advance_setFlag_vf {s t : State} {f : Bool} (h : advance (s.setFlag f) = .next t) :
    t.reg vf = 0 ∨ t.reg vf = 1 := by
  rw [advance_reg h, State.setFlag, State.reg_setReg_same]
  exact flagByte_zero_or_one f

/-- Settles O41: a flag writer writes the flag last and advances, and of the six only DRW can fault, before any effect. -/
theorem flagWritersLeaveZeroOrOne : Obligations.FlagWritersLeaveZeroOrOne := by
  intro s t i hw h
  rw [← or_assoc]
  cases i
  case addReg | sub | shr | subn | shl => exact .inl (advance_setFlag_vf h)
  case drw x y n =>
    cases hok : readRangeOk s.I.toNat n.toNat with
    | false => exact .inr (Host.Outcome.next.inj (h.symm.trans (execDrw_of_bad hok)))
    | true => exact .inl (advance_setFlag_vf ((execDrw_of_ok hok).symm.trans h))
  all_goals exact absurd hw (by simp [Instr.writesFlag])

/-! ### The pc of an instruction that does not redirect control (R83, R85) -/

/-- A meaning that faults by itself wherever the pc is, or has one effect wherever the pc is and then advances. -/
def PcBlind (i : Instr) (s : State) : Prop :=
  (∃ k, ∀ p, exec i (s.setPc p) = .next ((s.setPc p).raise k)) ∨
    ∃ s' : State, exec i s = advance s' ∧ ∀ p, exec i (s.setPc p) = advance (s'.setPc p)

theorem pcBlind_of_not_redirects (i : Instr) (s : State) (h : i.redirects = false) : PcBlind i s := by
  cases i
  case ret | jp | call | jpV0 | seImm | sneImm | seReg | sneReg | skp | sknp => exact absurd h (by simp [Instr.redirects])
  case drw x y n =>
    cases hok : readRangeOk s.I.toNat n.toNat with
    | false => exact .inl ⟨_, fun p => execDrw_of_bad (s := s.setPc p) hok⟩
    | true => exact .inr ⟨_, execDrw_of_ok hok, fun p => execDrw_of_ok (s := s.setPc p) hok⟩
  case ldB x =>
    cases hok : writeRangeOk s.I.toNat 3 with
    | false => exact .inl ⟨_, fun p => execLdB_of_bad (s := s.setPc p) hok⟩
    | true => exact .inr ⟨_, execLdB_of_ok hok, fun p => execLdB_of_ok (s := s.setPc p) hok⟩
  case storeRegs x =>
    cases hok : writeRangeOk s.I.toNat (x.val + 1) with
    | false => exact .inl ⟨_, fun p => execStoreRegs_of_bad (s := s.setPc p) hok⟩
    | true => exact .inr ⟨_, execStoreRegs_of_ok hok, fun p => execStoreRegs_of_ok (s := s.setPc p) hok⟩
  case loadRegs x =>
    cases hok : readRangeOk s.I.toNat (x.val + 1) with
    | false => exact .inl ⟨_, fun p => execLoadRegs_of_bad (s := s.setPc p) hok⟩
    | true => exact .inr ⟨_, execLoadRegs_of_ok hok, fun p => execLoadRegs_of_ok (s := s.setPc p) hok⟩
  all_goals exact .inr ⟨_, rfl, fun _ => rfl⟩

/-- Settles O37: a fault of its own keeps the pc `p`; an effect is followed by the advance, legal at `p` and not at the state's
own pc. -/
theorem advanceOutOfRangeFaultsAfterTheEffects : Obligations.AdvanceOutOfRangeFaultsAfterTheEffects := by
  intro s t i p hred hadv hp h
  rcases pcBlind_of_not_redirects i s hred with ⟨k, hk⟩ | ⟨s', -, heff⟩
  · obtain rfl := Host.Outcome.next.inj ((hk p).symm.trans h)
    rw [State.raise_pc, State.setPc_pc, if_pos rfl]
    exact hk s.pc
  · have hlegal : advance (s'.setPc p) = .next (s'.setPc (BitVec.ofNat 16 (p.toNat + 2))) := finish_of_inRange hp
    have hfault : advance (s'.setPc s.pc) = .next ((s'.setPc s.pc).raise .controlFlowFault) := finish_of_not_inRange hadv
    have hmoved : BitVec.ofNat 16 (p.toNat + 2) ≠ p := fun e => by
      have hval := toNat_ofNat_of_inRange hp
      rw [e] at hval
      omega
    obtain rfl := Host.Outcome.next.inj ((hlegal.symm.trans (heff p).symm).trans h)
    rw [State.setPc_pc, if_neg hmoved]
    exact (heff s.pc).trans hfault

end Sys2Proof.Machine
end

section
/-! SUPPORT. CLS, CALL, RET and the skips: each hands its target to `finish` (R84, R100, R101, R104). -/

namespace Sys2Proof.Machine

/-- A legal target some bytes after an address. -/
theorem finish_toNat_add {a : Word} {d : Nat} {s : State} (h : InRange (a.toNat + d)) :
    finish (a.toNat + d) s = .next { s with pc := a + BitVec.ofNat 16 d } := by
  rw [finish_of_inRange h, ofNat_pc_add, State.setPc]

/-! ### CLS (R100) -/

theorem exec_cls (s : State) : exec .cls s = advance (s.setFb Framebuffer.clear) := rfl

/-- Settles O13: a clear framebuffer and the advance. -/
theorem clearScreenUnlightsEveryPixel : Obligations.ClearScreenUnlightsEveryPixel := by
  intro s h
  rw [exec_cls, advance_of_canAdvance (s := s.setFb Framebuffer.clear) h]
  exact ⟨_, rfl, Framebuffer.pixel_clear, rfl⟩

/-! ### CALL and RET (R101, R104) -/

/-- Settles O15: with room CALL pushes its own address and hands its target to `finish`. -/
theorem callPushesItsOwnAddress : Obligations.CallPushesItsOwnAddress := by
  intro s nnn room h
  calc exec (.call nnn) s
    _ = finish nnn.toNat _ := execCall_of_room nnn room
    _ = _ := by rw [finish_of_inRange h, BitVec.ofNat_toNat, State.setPc]

/-- Settles O16: with a saved value RET pops it and hands the address two bytes after it to `finish`. -/
theorem returnResumesAfterTheSavedAddress : Obligations.ReturnResumesAfterTheSavedAddress := fun _ hpos h =>
  (execRet_of_pos hpos).trans (finish_toNat_add h)

/-- Settles O17: a full or an empty stack faults before anything, an illegal target after the push or the pop. -/
theorem callAndReturnFaults : Obligations.CallAndReturnFaults := fun _ nnn =>
  ⟨execCall_of_full nnn, fun room h => (execCall_of_room nnn room).trans (finish_of_not_inRange h), execRet_of_empty,
    fun hpos h => (execRet_of_pos hpos).trans (finish_of_not_inRange h)⟩

/-- Settles O18: the value RET finds on top is the address the CALL pushed. -/
theorem returnAfterCallResumesAfterTheCall : Obligations.ReturnAfterCallResumesAfterTheCall := by
  intro s t u nnn room htarget hadv hcall hstack hsp
  obtain rfl := Host.Outcome.next.inj ((callPushesItsOwnAddress s nnn room htarget).symm.trans hcall)
  have hpos : 0 < u.sp.val := by simp [hsp]
  have htop : u.stack[u.sp.val - 1]'(by omega) = s.pc := by simp [hstack, hsp]
  rw [returnResumesAfterTheSavedAddress u hpos (by rw [htop]; exact hadv), htop]
  simp [hsp]

/-! ### The skips (R84) -/

/-- A skip instruction goes on by its condition. -/
theorem exec_of_skipCondition {i : Instr} {s : State} {taken : Bool} (h : i.skipCondition s = some taken) :
    exec i s = finish (s.pc.toNat + if taken then 4 else 2) s := by
  cases i
  case seImm | seReg | skp | sknp =>
    obtain rfl := Option.some.inj h
    rfl
  case sneImm | sneReg =>
    obtain rfl := Option.some.inj h
    simp [exec, execSneImm, execSneReg, skipIf]
  all_goals exact absurd h (by simp [Instr.skipCondition])

theorem skip_of_skipCondition_ne_none {i : Instr} {s : State} (h : i.skipCondition s ≠ none) :
    ∃ x y kk, i ∈ [Instr.seImm x kk, .sneImm x kk, .seReg x y, .sneReg x y, .skp x, .sknp x] := by
  cases i
  case seImm x kk | sneImm x kk => exact ⟨x, 0, kk, by simp⟩
  case seReg x y | sneReg x y => exact ⟨x, y, 0, by simp⟩
  case skp x | sknp x => exact ⟨x, 0, 0, by simp⟩
  all_goals exact absurd rfl h

/-- Settles O19: a skip is `finish` at the target its condition chooses. -/
theorem skipsGoFourOrTwoBytesOn : Obligations.SkipsGoFourOrTwoBytesOn := by
  intro s x y kk
  have hskip (i : Instr) (taken : Bool) (hcond : i.skipCondition s = some taken)
      (hin : InRange (s.pc.toNat + if taken then 4 else 2)) := (exec_of_skipCondition hcond).trans (finish_toNat_add hin)
  exact ⟨fun i _ => ⟨hskip i true, hskip i false⟩, fun i => skip_of_skipCondition_ne_none⟩

/-- Settles O20: the target its condition chooses is not legal. -/
theorem skipsOutOfRangeFault : Obligations.SkipsOutOfRangeFault := fun _ _ _ hcond hout =>
  (exec_of_skipCondition hcond).trans (finish_of_not_inRange hout)

end Sys2Proof.Machine
end

section
/-! SUPPORT. The add immediate, logic and shift operations, RND and the key wait: one write or two, then the advance (R114,
R121 to R128, R143, R171). -/

namespace Sys2Proof.Machine

/-! ### Add immediate and the logic operations (R114, R121 to R123) -/

theorem exec_addImm (x : RegIdx) (kk : Byte) (s : State) : exec (.addImm x kk) s = advance (s.setReg x (s.reg x + kk)) := by
  rw [← addByte_eq]
  rfl

theorem exec_orReg (x y : RegIdx) (s : State) : exec (.orReg x y) s = advance (s.setReg x (s.reg x ||| s.reg y)) := rfl

theorem exec_andReg (x y : RegIdx) (s : State) : exec (.andReg x y) s = advance (s.setReg x (s.reg x &&& s.reg y)) := rfl

theorem exec_xorReg (x y : RegIdx) (s : State) : exec (.xorReg x y) s = advance (s.setReg x (s.reg x ^^^ s.reg y)) := rfl

/-- Settles O22: each operation is one register write and the advance. -/
theorem addImmediateAndLogicWriteNoFlag : Obligations.AddImmediateAndLogicWriteNoFlag := by
  intro s x y kk h
  rw [exec_addImm, exec_orReg, exec_andReg, exec_xorReg]
  exact ⟨advance_setReg_of_canAdvance h x _, advance_setReg_of_canAdvance h x _, advance_setReg_of_canAdvance h x _,
    advance_setReg_of_canAdvance h x _⟩

/-! ### The shifts (R126, R128) -/

theorem exec_shr (x y : RegIdx) (s : State) :
    exec (.shr x y) s = advance (s.setResultFlag x (s.reg x >>> 1) (decide ((s.reg x).getLsbD 0 = true))) := by
  rw [← shiftRight_eq, Bool.decide_eq_true]
  rfl

theorem exec_shl (x y : RegIdx) (s : State) :
    exec (.shl x y) s = advance (s.setResultFlag x (s.reg x <<< 1) (decide ((s.reg x).getLsbD 7 = true))) := by
  rw [← shiftLeft_eq, Bool.decide_eq_true]
  rfl

/-- Settles O24: each shift is its result, the flag of the bit shifted out, and the advance. -/
theorem shiftsWriteResultThenBitShiftedOut : Obligations.ShiftsWriteResultThenBitShiftedOut := by
  intro s x y h
  rw [exec_shr, exec_shl]
  exact ⟨advance_setResultFlag_of_canAdvance h x _ _, advance_setResultFlag_of_canAdvance h x _ _⟩

/-! ### RND and the key wait (R143, R171) -/

theorem execRndWith_of_canAdvance {s : State} (h : s.CanAdvance) (rnd : Byte) (x : RegIdx) (kk : Byte) :
    execRndWith rnd x kk s = .next { s with V := s.V.set x.val (rnd &&& kk), draws := s.draws + 1, pc := s.pc + 2 } :=
  advance_of_canAdvance (s := (s.setReg x (rnd &&& kk)).countDraw) h

/-- Settles O27: the byte given and the byte drawn are used alike. -/
theorem randomWritesTheMaskedByte : Obligations.RandomWritesTheMaskedByte := fun _ x kk rnd h =>
  ⟨execRndWith_of_canAdvance h rnd x kk, execRndWith_of_canAdvance h _ x kk⟩

theorem exec_ldVxK (x : RegIdx) (s : State) : exec (.ldVxK x) s = advance (s.awaitKeyInto x) := rfl

/-- Settles O28: the register is noted, the wait entered, and the pc advanced. -/
theorem keyWaitIsEntered : Obligations.KeyWaitIsEntered := fun s x h =>
  (exec_ldVxK x s).trans (advance_of_canAdvance (s := s.awaitKeyInto x) h)

end Sys2Proof.Machine
end

section
/-! SUPPORT. The instructions that read or write memory from `I` on: the digits, the register block stored and loaded, the word
stored where the next fetch is, and the faults when the bytes do not all exist (R42, R48, R176 to R178). -/

namespace Sys2Proof.Machine

/-! ### The range tests (R48) -/

theorem readRangeOk_of_bad {base count : Nat} (h : 0 < count) (hbad : Config.memTop < base + count - 1) :
    readRangeOk base count = false :=
  Bool.eq_false_iff.mpr fun hok => absurd ((readRangeOk_iff h).mp hok) (Nat.not_le_of_lt hbad)

theorem writeRangeOk_of_bad {base count : Nat} (h : 0 < count)
    (hbad : base < Config.progBase ∨ Config.memTop < base + count - 1) : writeRangeOk base count = false :=
  Bool.eq_false_iff.mpr fun hok => by
    obtain ⟨hbase, hend⟩ := (writeRangeOk_iff h).mp hok
    omega

/-- Settles O36: the range test of each access fails, and at `0xFFE` the fetch. -/
theorem memoryAccessOutOfRangeFaults : Obligations.MemoryAccessOutOfRangeFaults := fun _ x _ _ =>
  ⟨fun hn hbad => execDrw_of_bad (readRangeOk_of_bad hn hbad),
    fun hbad => execLdB_of_bad (writeRangeOk_of_bad (by decide) hbad),
    fun hbad => execStoreRegs_of_bad (writeRangeOk_of_bad x.val.succ_pos hbad),
    fun hbad => execLoadRegs_of_bad (readRangeOk_of_bad x.val.succ_pos hbad),
    fun hp hpc => step_of_fetch_none hp (State.fetchWord_eq_none.mpr (by rw [hpc]; decide))⟩

/-! ### Bytes stored from `I` on (R41, R47) -/

/-- A memory write and a legal advance. -/
theorem advance_setMem_of_canAdvance {s : State} (h : s.CanAdvance) (m : Memory) :
    advance (s.setMem m) = .next { s with mem := m, pc := s.pc + 2 } :=
  advance_of_canAdvance (s := s.setMem m) h

theorem advance_mem {s t : State} (h : advance s = .next t) : t.mem = s.mem := by
  rcases advance_cases h with ⟨-, rfl⟩ | ⟨-, rfl⟩ <;> rfl

/-- A write of at least one byte that its range test lets through ends inside memory. -/
theorem end_le_of_writeRangeOk {base count : Nat} (h : 0 < count) (hok : writeRangeOk base count = true) :
    base + count ≤ Config.memSize := by
  obtain ⟨-, hend⟩ := (writeRangeOk_iff h).mp hok
  simp only [Config.memTop, Config.memSize] at hend ⊢
  omega

/-- Each register of the block stored reads back from its address. -/
theorem State.byteAt_putBytes_regBlock {s : State} {x k : RegIdx} (hm : s.mem.wf = true)
    (hok : writeRangeOk s.I.toNat (x.val + 1) = true) (hk : k ≤ x) :
    (s.mem.putBytes s.I.toNat (s.regBlock x)).byteAt (s.I.toNat + k.val) = s.reg k := by
  have hlen := s.regBlock_length x
  have hlt : k.val < (s.regBlock x).length := by rw [hlen]; exact Nat.lt_succ_of_le hk
  rw [Memory.byteAt_putBytes_inside hm (by rw [hlen]; exact end_le_of_writeRangeOk x.val.succ_pos hok) hlt,
    State.regBlock_getElem]
  rfl

/-- What the block store leaves of memory, whether or not its advance is legal. -/
theorem mem_of_exec_storeRegs {s t : State} {x : RegIdx} (hok : writeRangeOk s.I.toNat (x.val + 1) = true)
    (h : exec (.storeRegs x) s = .next t) : t.mem = s.mem.putBytes s.I.toNat (s.regBlock x) :=
  advance_mem ((execStoreRegs_of_ok hok).symm.trans h)

theorem map_toNat_bcdDigits (b : Byte) :
    (bcdDigits b).map BitVec.toNat = [b.toNat / 100, b.toNat / 10 % 10, b.toNat % 10] := by
  have hb := byte_toNat_lt b
  have hhundreds : b.toNat / 100 < 256 := by omega
  have htens : b.toNat / 10 % 10 < 256 := by omega
  have hones : b.toNat % 10 < 256 := by omega
  simp [bcdDigits, Nat.mod_eq_of_lt, hhundreds, htens, hones]

/-- Settles O31: the three digits are the bytes written. -/
theorem bcdStoresThreeDigits : Obligations.BcdStoresThreeDigits := by
  intro s x hadv hm hbase htop
  have hok : writeRangeOk s.I.toNat 3 = true := (writeRangeOk_iff (by decide)).mpr ⟨hbase, htop⟩
  have hend : s.I.toNat + 3 ≤ Config.memSize := end_le_of_writeRangeOk (by decide) hok
  have hdigit (k : Nat) (hk : k < 3) :
      ((s.mem.putBytes s.I.toNat (bcdDigits (s.reg x))).byteAt (s.I.toNat + k)).toNat =
        [(s.reg x).toNat / 100, (s.reg x).toNat / 10 % 10, (s.reg x).toNat % 10][k] := by
    rw [Memory.byteAt_putBytes_inside hm hend hk]
    exact (List.getElem_map _).symm.trans (List.getElem_of_eq (map_toNat_bcdDigits _) hk)
  exact ⟨_, (execLdB_of_ok hok).trans (advance_setMem_of_canAdvance hadv _), rfl, hdigit 0 (by decide),
    hdigit 1 (by decide), hdigit 2 (by decide), fun _ ha => Memory.byteAt_putBytes_outside hm hend ha⟩

/-- Settles O32: the block is the bytes written. -/
theorem storeRegistersWritesTheBlock : Obligations.StoreRegistersWritesTheBlock := by
  intro s x hadv hm hbase htop
  have hok : writeRangeOk s.I.toNat (x.val + 1) = true := (writeRangeOk_iff x.val.succ_pos).mpr ⟨hbase, htop⟩
  have hlen := s.regBlock_length x
  refine ⟨_, (execStoreRegs_of_ok hok).trans (advance_setMem_of_canAdvance hadv _), rfl,
    fun k => State.byteAt_putBytes_regBlock hm hok, fun a ha => ?_⟩
  exact Memory.byteAt_putBytes_of_writeRangeOk hm (by rw [hlen]; exact hok) (by rw [hlen]; exact ha)

/-! ### The block load (R178) -/

theorem advance_setRegBlock_of_canAdvance {s : State} (h : s.CanAdvance) (bs : List Byte) :
    advance (s.setRegBlock bs) = .next { s with V := setBlock s.V 0 bs, pc := s.pc + 2 } :=
  advance_of_canAdvance (s := s.setRegBlock bs) h

theorem exec_loadRegs_of_canAdvance {s : State} {x : RegIdx} (hadv : s.CanAdvance) (htop : s.I.toNat + x.val ≤ 0xFFE) :
    exec (.loadRegs x) s =
      .next { s with V := setBlock s.V 0 (s.mem.bytesAt s.I.toNat (x.val + 1)), pc := s.pc + 2 } :=
  (execLoadRegs_of_ok ((readRangeOk_iff x.val.succ_pos).mpr htop)).trans (advance_setRegBlock_of_canAdvance hadv _)

/-- A block loaded from memory: each register up to `x` has its byte, and every other register is as before. -/
theorem setBlock_bytesAt_getElem (V : RegFile) (m : Memory) (base : Nat) (x k : RegIdx) :
    (setBlock V 0 (m.bytesAt base (x.val + 1)))[k.val] = if k ≤ x then m.byteAt (base + k.val) else V[k.val] := by
  simp only [setBlock_getElem, Memory.bytesAt_length, Memory.bytesAt_getElem, Nat.zero_le, true_and, Nat.sub_zero,
    Nat.lt_succ_iff, Fin.val_fin_le, dite_eq_ite]

/-- Settles O33: the bytes from `I` on are the block written. -/
theorem loadRegistersReadsTheBlock : Obligations.LoadRegistersReadsTheBlock := fun s x hadv htop =>
  ⟨_, exec_loadRegs_of_canAdvance hadv htop, rfl, setBlock_bytesAt_getElem s.V s.mem s.I.toNat x⟩

/-- Settles O34: the load reads the bytes that the store wrote, whether or not the store's advance was legal. -/
theorem loadRegistersInvertsStoreRegisters : Obligations.LoadRegistersInvertsStoreRegisters := by
  intro s t u x _ hadv hm hbase htop hstore hmem hI
  have hok : writeRangeOk s.I.toNat (x.val + 1) = true := (writeRangeOk_iff x.val.succ_pos).mpr ⟨hbase, htop⟩
  obtain ⟨v, hload, -, hregs⟩ := loadRegistersReadsTheBlock u x hadv (by rw [hI]; exact htop)
  refine ⟨v, hload, fun k hk => ?_⟩
  rw [hregs, if_pos hk, hmem, hI, mem_of_exec_storeRegs hok hstore, State.byteAt_putBytes_regBlock hm hok hk]

/-! ### The next fetch (R43, R52) -/

/-- Settles O35: the fetch reads the two bytes at the pc, which the store wrote. -/
theorem storedRegistersAreFetchedNext : Obligations.StoredRegistersAreFetchedNext := by
  intro s t u x k hkx hm hbase htop hstore hmem hpc
  have hok : writeRangeOk s.I.toNat (x.val + 1) = true := (writeRangeOk_iff x.val.succ_pos).mpr ⟨hbase, htop⟩
  have hhi : u.mem.byteAt u.pc.toNat = s.reg k := by
    rw [hmem, hpc, mem_of_exec_storeRegs hok hstore, State.byteAt_putBytes_regBlock hm hok (Nat.le_of_succ_le hkx)]
  have hlo : u.mem.byteAt (u.pc.toNat + 1) = s.reg ⟨k.val + 1, by omega⟩ := by
    rw [hmem, hpc, mem_of_exec_storeRegs hok hstore]
    exact State.byteAt_putBytes_regBlock (k := ⟨k.val + 1, by omega⟩) hm hok hkx
  have hexists : u.pc.toNat + 1 ≤ Config.memTop := by
    rw [hpc]
    exact (Nat.add_le_add_left hkx _).trans htop
  rw [State.fetchWord_eq_some.mpr ⟨hexists, rfl⟩, hhi, hlo]

end Sys2Proof.Machine
end

section
/-! SUPPORT. A sprite drawn twice: its targets flipped and flipped back, the second draw finding lit what the first lit (R150). -/

namespace Sys2Proof.Machine

/-- Settles O30: both draws have the same targets, so the second flips back what the first flipped, and a target is lit before
the second exactly when the first lit it. -/
theorem drawingTwiceRestoresThePixels : Obligations.DrawingTwiceRestoresThePixels := by
  intro s t u x y x' y' n hadv hadv' hrange hdraw hfb hmem hI hx hy
  obtain ⟨t', ht', hpix, -⟩ := drawXorsTheSpriteAndReportsCollision s x y n hadv hrange
  obtain rfl := Host.Outcome.next.inj (ht'.symm.trans hdraw)
  obtain ⟨v, hv, hpix', hframe⟩ := drawXorsTheSpriteAndReportsCollision u x' y' n hadv' (by rw [hI]; exact hrange)
  rw [hmem, hI, hx, hy] at hpix' hframe
  have hu (c : Fin 64) (r : Fin 32) : u.pixel c r = t'.pixel c r := by rw [State.pixel, hfb, State.pixel]
  refine ⟨v, hv, Framebuffer.ext_pixel fun c r => ?_, ?_⟩
  · calc v.pixel c r
      _ = (u.pixel c r ^^ _) := hpix' c r
      _ = s.pixel c r := by rw [hu, hpix, Bool.xor_assoc, Bool.xor_self, Bool.xor_false]
  · have hlit (c : Fin 64) (r : Fin 32) :
        (spriteBit s.mem s.I.toNat n.toNat (s.reg x).toNat (s.reg y).toNat c r && u.pixel c r) = true ↔
          s.pixel c r = false ∧ t'.pixel c r = true := by
      rw [hu, hpix]
      cases s.pixel c r <;> simp
    refine (congrArg (State.reg · 15) hframe).trans ((Vector.getElem_set_self _).trans ?_)
    exact if_congr (exists_congr fun c => exists_congr (hlit c)) rfl rfl

end Sys2Proof.Machine
end

section
/-! SUPPORT. The canonical form of memory is determined by what memory reads as: the least address at which two lists differ reads
differently. -/

namespace Sys2Proof.Machine

theorem Memory.byteAt_cons (k : Nat) (c : Byte) (rest : Memory) (a : Nat) :
    Memory.byteAt ((k, c) :: rest) a = if k = a then c else Memory.byteAt rest a := by
  by_cases h : k = a <;> simp [Memory.byteAt, Memory.lookup, h]

/-- Below its least address a memory reads as reset left it. -/
theorem Memory.byteAt_below {m : Memory} {lo a : Nat} (h : Memory.wfFrom lo m = true) (ha : a < lo) :
    m.byteAt a = Config.resetByte a := by
  rw [Memory.byteAt, Memory.lookup_below h ha]
  rfl

/-- At its least address a memory does not read as reset left it. -/
theorem Memory.byteAt_head_ne {lo k : Nat} {c : Byte} {rest : Memory} (h : Memory.wfFrom lo ((k, c) :: rest) = true) :
    Memory.byteAt ((k, c) :: rest) k ≠ Config.resetByte k := by
  obtain ⟨-, -, hc, -⟩ := Memory.wfFrom_cons.mp h
  rwa [Memory.byteAt_cons, if_pos rfl]

/-- A memory that reads alike does not start at a higher address. -/
theorem Memory.head_le_of_byteAt_eq {lo lo' k k' : Nat} {c c' : Byte} {rest rest' : Memory}
    (h : Memory.wfFrom lo ((k, c) :: rest) = true) (h' : Memory.wfFrom lo' ((k', c') :: rest') = true)
    (heq : ∀ a, Memory.byteAt ((k, c) :: rest) a = Memory.byteAt ((k', c') :: rest') a) : k' ≤ k := by
  refine Nat.le_of_not_lt fun hlt => Memory.byteAt_head_ne h ((heq k).trans ?_)
  obtain ⟨-, hcell'⟩ := Memory.wfFrom_cons.mp h'
  exact Memory.byteAt_below (lo := k') (Memory.wfFrom_cons.mpr ⟨le_rfl, hcell'⟩) hlt

theorem Memory.eq_of_byteAt_eq {m m' : Memory} {lo lo' : Nat} (h : Memory.wfFrom lo m = true)
    (h' : Memory.wfFrom lo' m' = true) (heq : ∀ a, m.byteAt a = m'.byteAt a) : m = m' := by
  induction m generalizing m' lo lo' with
  | nil =>
    cases m' with
    | nil => rfl
    | cons cell' rest' => exact absurd (heq cell'.1).symm (Memory.byteAt_head_ne h')
  | cons cell rest ih =>
    cases m' with
    | nil => exact absurd (heq cell.1) (Memory.byteAt_head_ne h)
    | cons cell' rest' =>
      obtain ⟨k, c⟩ := cell
      obtain ⟨k', c'⟩ := cell'
      obtain rfl : k = k' :=
        le_antisymm (Memory.head_le_of_byteAt_eq h' h fun a => (heq a).symm) (Memory.head_le_of_byteAt_eq h h' heq)
      obtain ⟨-, -, -, hrest⟩ := Memory.wfFrom_cons.mp h
      obtain ⟨-, -, -, hrest'⟩ := Memory.wfFrom_cons.mp h'
      obtain rfl : c = c' := by simpa [Memory.byteAt_cons] using heq k
      refine congrArg _ (ih hrest hrest' fun a => ?_)
      by_cases ha : k = a
      · rw [Memory.byteAt_below hrest (by omega), Memory.byteAt_below hrest' (by omega)]
      · simpa [Memory.byteAt_cons, ha] using heq a

/-- Settles O53: a canonical memory is canonical from address 0 on. -/
theorem canonicalMemoryIsUnique : Obligations.CanonicalMemoryIsUnique := fun _ _ => Memory.eq_of_byteAt_eq

end Sys2Proof.Machine
end

section
/-! SUPPORT. The host's operations one by one: what `Reset` leaves, the loads and timestamps without a meaning, the exact decay of
the timers and its independence of the calls between, the key write, and the two reads (R200, R211 to R220, R230 to R233). -/

namespace Sys2Proof.Machine

/-! ### `Reset` (R230, R31) -/

/-- The glyphs stand at the start of memory (R45). -/
theorem resetByte_of_lt {a : Nat} (h : a < Config.font.length) : Config.resetByte a = Config.font[a] :=
  List.getD_eq_getElem _ _ h

/-- Beyond the glyphs memory is zero (R31). -/
theorem resetByte_of_le {a : Nat} (h : Config.font.length ≤ a) : Config.resetByte a = 0 :=
  List.getD_eq_default _ _ h

/-- Settles O54: each field of the reset state. -/
theorem resetGivesTheResetState : Obligations.ResetGivesTheResetState := by
  intro s
  refine ⟨resetOp s, rfl, rfl, rfl, rfl, rfl, rfl, Framebuffer.pixel_clear, reset_reg, rfl, rfl, rfl, fun k => ?_, fun k => ?_,
    rfl, rfl, rfl, rfl, fun d => resetByte_of_lt d.isLt, fun a ha _ => resetByte_of_le ha⟩
  · exact Vector.getElem_replicate _
  · exact Vector.getElem_replicate _

/-! ### Loads and timestamps without a meaning (R214, R232, R233) -/

theorem load_of_lt_length {image : List Byte} {s : State} (hp : s.phase = .fresh) (hlen : Config.maxImage < image.length) :
    load image s = .next (.failure, s.raise .loadFault) := by
  rw [load, hp]
  exact if_neg (Nat.not_le_of_lt hlen)

theorem load_of_not_fresh {image : List Byte} {s : State} (hp : s.phase ≠ .fresh) :
    load image s = .refused .loadOutsideFresh := by
  cases h : s.phase with
  | fresh => exact absurd h hp
  | running | awaitKey | halted => rw [load, h]

theorem advanceTimers_of_lt {n : Nat} {s : State} (hv : s.tValid = true) (hlt : n < s.tLast) :
    advanceTimers n s = .refused .timestampDecreased := by
  rw [advanceTimers, if_pos hv, if_pos hlt]

/-- Settles O56: the load that fails, the load refused and the timestamp refused. -/
theorem loadFailuresAndRefusals : Obligations.LoadFailuresAndRefusals := fun _ _ _ =>
  ⟨load_of_lt_length, load_of_not_fresh, advanceTimers_of_lt⟩

/-! ### The decay of the timers (R210 to R213) -/

theorem advanceTimers_of_not_valid {n : Nat} {s : State} (hv : s.tValid = false) :
    advanceTimers n s = .next (s.baseline n) := by
  rw [advanceTimers, hv]
  rfl

theorem advanceTimers_of_le {n : Nat} {s : State} (hv : s.tValid = true) (hle : s.tLast ≤ n) :
    advanceTimers n s = .next (s.decayed n) := by
  rw [advanceTimers, if_pos hv, if_neg (Nat.not_lt_of_le hle)]

theorem decayTimer_toNat (v : Byte) (frames : Nat) : (decayTimer v frames).toNat = v.toNat - min v.toNat frames := by
  rw [decayTimer, BitVec.toNat_ofNat]
  exact Nat.mod_eq_of_lt ((Nat.sub_le _ _).trans_lt v.isLt)

/-- Settles O57: the frames are the whole part of the time in thirds over a frame's 50, and the remainder is what is left. -/
theorem advanceTimersBaselineAndDecay : Obligations.AdvanceTimersBaselineAndDecay := fun s n =>
  ⟨advanceTimers_of_not_valid, fun hv hle =>
    ⟨_, advanceTimers_of_le hv hle, s.framesAt n, Nat.div_add_mod _ _, decayTimer_toNat _ _, decayTimer_toNat _ _, rfl⟩⟩

/-- Decay by some frames and then by more is decay by all of them. -/
theorem decayTimer_decayTimer (v : Byte) (f g : Nat) : decayTimer (decayTimer v f) g = decayTimer v (f + g) := by
  apply BitVec.eq_of_toNat_eq
  simp only [decayTimer_toNat]
  omega

/-- The time up to `n` is the remainder carried at `a` and the time since, and 50 thirds for each frame converted at `a`. -/
theorem State.elapsedThirds_split {s : State} {a n : Nat} (ha : s.tLast ≤ a) (hn : a ≤ n) :
    s.elapsedThirds n = (s.decayed a).elapsedThirds n + Config.frameThirds * s.framesAt a := by
  have hdiv := Nat.div_add_mod (s.elapsedThirds a) Config.frameThirds
  simp only [State.elapsedThirds, State.framesAt, State.decayed_tRem3_val, State.decayed_tLast] at hdiv ⊢
  omega

/-- A call between, with a timestamp between, makes no difference. -/
theorem State.decayed_decayed {s : State} {a n : Nat} (ha : s.tLast ≤ a) (hn : a ≤ n) :
    (s.decayed a).decayed n = s.decayed n := by
  have hsplit := State.elapsedThirds_split ha hn
  have hframes : s.framesAt n = s.framesAt a + (s.decayed a).framesAt n := by
    rw [State.framesAt, hsplit, Nat.add_mul_div_left _ _ (by decide), Nat.add_comm]
    rfl
  have hrem : ((s.decayed a).decayed n).tRem3 = (s.decayed n).tRem3 := Fin.ext <| by
    rw [State.decayed_tRem3_val, State.decayed_tRem3_val, hsplit, Nat.add_mul_mod_self_left]
  have hdecay (v : Byte) :
      decayTimer (decayTimer v (s.framesAt a)) ((s.decayed a).framesAt n) = decayTimer v (s.framesAt n) := by
    rw [decayTimer_decayTimer, hframes]
  calc (s.decayed a).decayed n
    _ = { s with
          tLast := n
          tRem3 := ((s.decayed a).decayed n).tRem3
          dt := decayTimer (decayTimer s.dt (s.framesAt a)) ((s.decayed a).framesAt n)
          st := decayTimer (decayTimer s.st (s.framesAt a)) ((s.decayed a).framesAt n) } := rfl
    _ = s.decayed n := by
      rw [hrem, hdecay, hdecay]
      rfl

theorem performAll_singleton (op : HostOp) (s : State) : performAll [op] s = perform op s := by
  rw [performAll]
  cases perform op s <;> rfl

/-- Settles O58, by induction on the calls before the last. -/
theorem timerDecayIsPathIndependent : Obligations.TimerDecayIsPathIndependent := by
  intro s ns n hv hsorted
  induction ns generalizing s with
  | nil => exact performAll_singleton _ s
  | cons a ns ih =>
    obtain ⟨hfirst, hrest⟩ := List.pairwise_cons.mp hsorted
    have ha : s.tLast ≤ a := hfirst a (by simp)
    have hn : a ≤ n := (List.pairwise_cons.mp hrest).1 n (by simp)
    calc performAll ((a :: ns).map HostOp.advanceTimers ++ [.advanceTimers n]) s
      _ = performAll (ns.map HostOp.advanceTimers ++ [.advanceTimers n]) (s.decayed a) := by
        rw [List.map_cons, List.cons_append, performAll, perform, advanceTimers_of_le hv ha]
      _ = advanceTimers n (s.decayed a) := ih (s.decayed a) hv hrest
      _ = .next ((s.decayed a).decayed n) := advanceTimers_of_le hv hn
      _ = .next (s.decayed n) := by rw [State.decayed_decayed ha hn]
      _ = advanceTimers n s := (advanceTimers_of_le hv (ha.trans hn)).symm

/-! ### `KeyWrite` (R216, R217) -/

theorem keyWrite_of_endsWait {k : KeyId} {b : Bool} {s : State} (h : s.endsWait k b = true) :
    keyWrite k b s = { (s.setKey k b).setReg s.awaitX (BitVec.ofNat 8 k.val) with phase := .running } :=
  if_pos h

theorem keyWrite_of_not_endsWait {k : KeyId} {b : Bool} {s : State} (h : ¬s.endsWait k b = true) :
    keyWrite k b s = s.setKey k b :=
  if_neg h

/-- Settles O59: the press that ends the wait, and any other write. -/
theorem keyWriteSetsTheFlagAndMayEndAWait : Obligations.KeyWriteSetsTheFlagAndMayEndAWait := by
  intro s k b
  refine ⟨fun hb hkey hwait => ?_, fun hother => ?_⟩
  · subst hb
    exact keyWrite_of_endsWait (State.endsWait_iff.mpr ⟨rfl, hkey, hwait⟩)
  · refine keyWrite_of_not_endsWait fun hends => ?_
    obtain ⟨hb, hkey, hwait⟩ := State.endsWait_iff.mp hends
    simp [hb, hkey, hwait] at hother

/-! ### The reads of the run state and the fault (R200, R219, R220) -/

theorem State.run_iff (s : State) : s.run = true ↔ s.phase = .running ∨ s.phase = .awaitKey := by
  rw [State.run]
  cases s.phase <;> simp

theorem FaultKind.code_inj {k l : FaultKind} : k.code = l.code ↔ k = l := by
  cases k <;> cases l <;> decide

theorem FaultKind.code_le (k : FaultKind) : k.code ≤ 5 := by
  cases k <;> decide

/-- Settles O60: by the phase, and by the kind of the fault. -/
theorem runAndFaultReads : Obligations.RunAndFaultReads :=
  ⟨State.run_iff, fun _ _ => FaultKind.code_inj, fun s => s.fault.code_le⟩

end Sys2Proof.Machine
end
